-- ==== Sys2Proof/Word.lean ====
section
/-! DEFINITION. The bit-vector types of the block (spec/00_scope.md R9, R11): bytes, the 32-bit header word W and
the 16-bit classifier prefix H. Every value is unsigned. -/

namespace Sys2Proof

/-- A byte, 0 to 255 (R9). -/
abbrev Byte := BitVec 8

/-- The header word `W = buf[0] ++ buf[1] ++ buf[2] ++ buf[3]` (R9, R60). -/
abbrev HeaderWord := BitVec 32

/-- The two-byte prefix `H = buf[0] ++ buf[1]` the classifier's rows are matched against (R69). -/
abbrev PrefixWord := BitVec 16

end Sys2Proof
end

