-- ==== Sys2Proof/Config.lean ====
section
/-! DEFINITION. What is fixed before any transaction (spec/10_state.md R37): the hardwired constants of
00_scope.md R6, the parameters of R7, the operation and status numbers (30_encoding.md R68, 60_exceptions.md R141),
the payload-type names (30_encoding.md R66), the command port (10_state.md R28), and the one free value. -/

namespace Sys2Proof

/-- The command port, the inputs of the block (10_state.md R28). `len` is the number on `req_len`: R7 lets a model
take the length as a natural number, so that every LEN_W is covered (log 7). -/
structure CommandPort where
  valid  : Bool
  op     : BitVec 2
  len    : Nat
  b0     : Byte
  b1     : Byte
  b2     : Byte
  b3     : Byte
  p      : Bool
  count  : Byte
  pt     : Byte
  length : BitVec 16
  deriving DecidableEq, Repr, Inhabited

namespace Config

/-- VERSION (R6). -/
abbrev version : BitVec 2 := 2#2
/-- HEADER_SIZE, in bytes (R6): DECODE's length precondition. -/
abbrev headerSize : Nat := 4
/-- MIN_RTCP_SIZE, in bytes (R6): CLASSIFY's length check. -/
abbrev minRtcpSize : Nat := 4
/-- MIN_RTP_SIZE, in bytes (R6): recorded, read by no rule (40_classifier.md R95). -/
abbrev minRtpSize : Nat := 12
/-- PT_CONFLICT_LO (R6), in the byte the comparison is made in (40_classifier.md R90). -/
abbrev ptConflictLo : Byte := 72#8
/-- PT_CONFLICT_HI (R6). -/
abbrev ptConflictHi : Byte := 76#8
/-- PT_MASK (R6): strips the marker bit. -/
abbrev ptMask : Byte := 0x7f#8
/-- COUNT_MAX (R6). -/
abbrev countMax : Byte := 31#8

/-- LEN_W, open, at its default (R7; log 7). Only the host's saturation reads it (10_state.md R28). -/
abbrev lenW : Nat := 16
/-- The greatest length the host can put on `req_len` (10_state.md R28). -/
abbrev maxLen : Nat := 2 ^ lenW - 1

/-- The operation select values (30_encoding.md R68). -/
abbrev opClassify : BitVec 2 := 0#2
abbrev opValidate : BitVec 2 := 1#2
abbrev opEncode : BitVec 2 := 2#2
abbrev opDecode : BitVec 2 := 3#2

/-- The named payload types (30_encoding.md R66): labels for the host. -/
abbrev ptSr : Byte := 200#8
abbrev ptRr : Byte := 201#8
abbrev ptSdes : Byte := 202#8
abbrev ptBye : Byte := 203#8
abbrev ptApp : Byte := 204#8
abbrev ptRtpfb : Byte := 205#8
abbrev ptPsfb : Byte := 206#8
abbrev ptXr : Byte := 207#8

/-- FREE VALUE (log 8): what the host's wires carry, while the script line of that number is presented, where the
line puts nothing on them (unread inputs, lanes at an index not below the length; 10_state.md R28,
93_implementation_defined.md U8, U9). No body: no proof can see it. -/
opaque undriven (line : Nat) : CommandPort

end Config

end Sys2Proof
end

