-- ==== Sys2Proof/Syntax.lean ====
section
/-! DEFINITION. The operands of a request (spec/10_state.md R20 to R25), the one instruction type with a
constructor for every row of spec/opcode_table.json (30_encoding.md R74), the encoded forms of a request, and the
host's script lines (30_encoding.md R75 to R78). -/

namespace Sys2Proof

/-- The header operand record `hdr` (10_state.md R20). The count's container is COUNT_W = 8 bits wide. No version
field (R22). -/
structure Header where
  p      : Bool
  count  : Byte
  pt     : Byte
  length : BitVec 16
  deriving DecidableEq, Repr

/-- The input buffer as the block sees it: its length and exactly those of its bytes 0 to 3 that exist
(10_state.md R23, 20_memory.md R41, R43). A byte at an index not below the length has no place in the type.
`full` is a buffer of `4 + extra` bytes. -/
inductive Buf where
  | empty
  | one   (b0 : Byte)
  | two   (b0 b1 : Byte)
  | three (b0 b1 b2 : Byte)
  | full  (b0 b1 b2 b3 : Byte) (extra : Nat)
  deriving DecidableEq, Repr

/-- The output buffer `out`, always exactly four bytes (10_state.md R25, 20_memory.md R42). -/
structure OutBuf where
  o0 : Byte
  o1 : Byte
  o2 : Byte
  o3 : Byte
  deriving DecidableEq, Repr

/-- One constructor for every row of spec/opcode_table.json. The first four are the operations (format OP) with
the operands they read. `rtcpHdr…` are the header words (format RTCP_HDR, fields P, RC, LEN, and PT for ANY; DECODE).
`clsPt…` are the classifier prefixes (format CLS_PREFIX, ignored bits x and marker m; CLASSIFY); `rest` is
`buf[2] ++ buf[3]`, which must exist (R69) and is not read (log 5). -/
inductive Instr where
  | classify (buf : Buf)
  | validate (count : Byte)
  | encode (hdr : Header)
  | decode (buf : Buf)
  | rtcpHdrSr    (p : Bool) (rc : BitVec 5) (len : BitVec 16)
  | rtcpHdrRr    (p : Bool) (rc : BitVec 5) (len : BitVec 16)
  | rtcpHdrSdes  (p : Bool) (rc : BitVec 5) (len : BitVec 16)
  | rtcpHdrBye   (p : Bool) (rc : BitVec 5) (len : BitVec 16)
  | rtcpHdrApp   (p : Bool) (rc : BitVec 5) (len : BitVec 16)
  | rtcpHdrRtpfb (p : Bool) (rc : BitVec 5) (len : BitVec 16)
  | rtcpHdrPsfb  (p : Bool) (rc : BitVec 5) (len : BitVec 16)
  | rtcpHdrXr    (p : Bool) (rc : BitVec 5) (len : BitVec 16)
  | rtcpHdrAny   (p : Bool) (rc : BitVec 5) (pt : Byte) (len : BitVec 16)
  | clsPt72 (x : BitVec 6) (m : Bool) (rest : BitVec 16)
  | clsPt73 (x : BitVec 6) (m : Bool) (rest : BitVec 16)
  | clsPt74 (x : BitVec 6) (m : Bool) (rest : BitVec 16)
  | clsPt75 (x : BitVec 6) (m : Bool) (rest : BitVec 16)
  | clsPt76 (x : BitVec 6) (m : Bool) (rest : BitVec 16)
  deriving DecidableEq, Repr

/-- A request in encoded form, one case per group of the opcode table (30_encoding.md R74; log 3): the signals of
the command port; a header word W, which is the whole buffer of a DECODE; a prefix H with the two bytes after it,
the whole buffer of a CLASSIFY. -/
inductive RequestWord where
  | port (c : CommandPort)
  | header (w : HeaderWord)
  | classifierWord (h : PrefixWord) (rest : BitVec 16)
  deriving DecidableEq, Repr

/-- Why a word holds no instruction. `noRequest`: `req_valid` is 0 (10_state.md R28). `notATableWidth`: the opcode
table has no row of that width. No word is rejected for its bits: all four operation codes are used (30_encoding.md
R68), and a header word or prefix outside the rows still is a DECODE or CLASSIFY (R70, R74; log 4). -/
inductive Reject where
  | noRequest
  | notATableWidth
  deriving DecidableEq, Repr

/-- What the decoder answers: total, an instruction or a named rejection. -/
inductive Decoded where
  | instr (i : Instr)
  | rejected (r : Reject)
  deriving DecidableEq, Repr

/-- A buffer operand of a script line: a byte list, or the output bytes of an earlier line by its number (R77). -/
inductive BufArg where
  | bytes (l : List Byte)
  | outOf (line : Nat)
  deriving DecidableEq, Repr

/-- A header operand of a script line: its fields, or the record an earlier line returned (R77). -/
inductive HdrArg where
  | fields (h : Header)
  | resOf (line : Nat)
  deriving DecidableEq, Repr

/-- One line of the host's transaction script (30_encoding.md R75, R77). `word` presents an encoded request as it
stands. `onFlag k l` is the host's `if flag_k then l`. `underReset c` is a sample of the command port taken while
the reset input is asserted (70_reset_and_hazards.md R171; log 10). -/
inductive Line where
  | word (w : RequestWord)
  | classify (b : BufArg)
  | validate (h : HdrArg)
  | encode (h : HdrArg)
  | decode (b : BufArg)
  | onFlag (line : Nat) (l : Line)
  | underReset (c : CommandPort)
  deriving DecidableEq, Repr

end Sys2Proof
end

