-- ==== Sys2Proof/WellFormed.lean ====
section
/-! DEFINITION. Which instructions are requests the host can present: a buffer's length fits on `req_len`
(spec/10_state.md R28, LEN_W at its default, log 7), and the catch-all header row is used only for a payload type
that has no named row ("a decoder tries the named rows first", 30_encoding.md R74). -/

namespace Sys2Proof

/-- The length is at most `2^LEN_W - 1`; a longer buffer is presented saturated (10_state.md R28). -/
def Buf.presentable : Buf → Bool
  | .empty => true
  | .one _ => true
  | .two _ _ => true
  | .three _ _ _ => true
  | .full _ _ _ _ extra => decide (extra + 4 ≤ Config.maxLen)

/-- The payload types with a named row: 200 to 207 (30_encoding.md R66). -/
def namedPt (pt : Byte) : Bool := decide (Config.ptSr ≤ pt) && decide (pt ≤ Config.ptXr)

/-- Whether the host can present the instruction, constructor by constructor. -/
def Instr.wellFormed : Instr → Bool
  | .classify buf => buf.presentable
  | .validate _ => true
  | .encode _ => true
  | .decode buf => buf.presentable
  | .rtcpHdrSr _ _ _ => true
  | .rtcpHdrRr _ _ _ => true
  | .rtcpHdrSdes _ _ _ => true
  | .rtcpHdrBye _ _ _ => true
  | .rtcpHdrApp _ _ _ => true
  | .rtcpHdrRtpfb _ _ _ => true
  | .rtcpHdrPsfb _ _ _ => true
  | .rtcpHdrXr _ _ _ => true
  | .rtcpHdrAny _ _ pt _ => !namedPt pt
  | .clsPt72 _ _ _ => true
  | .clsPt73 _ _ _ => true
  | .clsPt74 _ _ _ => true
  | .clsPt75 _ _ _ => true
  | .clsPt76 _ _ _ => true

end Sys2Proof
end

