-- ==== Sys2Proof/Decode.lean ====
section
/-! DEFINITION. From encoded requests to instructions and back: the command port (spec/10_state.md R28), the header
word (30_encoding.md R60, R66, R74), the classifier prefix (R69, R74), and the rows of spec/opcode_table.json as
masks and patterns. Total on every word; a word is rejected only where it is no request at all. -/

namespace Sys2Proof

/-! ### The buffer behind the wires -/

/-- The buffer the port's length and lanes present: lane i carries `buf[i]` only when i is below the length, and a
lane that carries no byte is dropped here (R28, 20_memory.md R43). -/
def Buf.ofLanes (len : Nat) (b0 b1 b2 b3 : Byte) : Buf :=
  match len with
  | 0 => .empty
  | 1 => .one b0
  | 2 => .two b0 b1
  | 3 => .three b0 b1 b2
  | extra + 4 => .full b0 b1 b2 b3 extra

/-- The four-byte buffer whose header word is `w`, most significant byte first (00_scope.md R9, 20_memory.md R44). -/
def Buf.ofWord (w : HeaderWord) : Buf :=
  .full (w.extractLsb' 24 8) (w.extractLsb' 16 8) (w.extractLsb' 8 8) (w.extractLsb' 0 8) 0

/-- The four-byte buffer `H ++ buf[2] ++ buf[3]` (30_encoding.md R69). -/
def Buf.ofPrefix (h : PrefixWord) (rest : BitVec 16) : Buf :=
  .full (h.extractLsb' 8 8) (h.extractLsb' 0 8) (rest.extractLsb' 8 8) (rest.extractLsb' 0 8) 0

/-! ### The decoder -/

/-- A sample of the command port. With `req_valid` = 0 there is no request; otherwise `req_op` selects the
operation, all four codes in use (R68), and only the inputs it reads are taken (R28). -/
def decodePort (c : CommandPort) : Decoded :=
  if c.valid then
    if c.op = Config.opClassify then .instr (.classify (Buf.ofLanes c.len c.b0 c.b1 c.b2 c.b3))
    else if c.op = Config.opValidate then .instr (.validate c.count)
    else if c.op = Config.opEncode then .instr (.encode ⟨c.p, c.count, c.pt, c.length⟩)
    else .instr (.decode (Buf.ofLanes c.len c.b0 c.b1 c.b2 c.b3))
  else .rejected .noRequest

/-- A header word against the RTCP_HDR rows, the named rows first (R74). One that matches none has V other than 2
and is DECODE's BadVersion case (R70), so it reads as a plain DECODE of its four bytes (log 4). -/
def decodeHeaderWord (w : HeaderWord) : Instr :=
  let p := w.getLsbD 29
  let rc := w.extractLsb' 24 5
  let pt := w.extractLsb' 16 8
  let len := w.extractLsb' 0 16
  if w.extractLsb' 30 2 = Config.version then
    if pt = Config.ptSr then .rtcpHdrSr p rc len
    else if pt = Config.ptRr then .rtcpHdrRr p rc len
    else if pt = Config.ptSdes then .rtcpHdrSdes p rc len
    else if pt = Config.ptBye then .rtcpHdrBye p rc len
    else if pt = Config.ptApp then .rtcpHdrApp p rc len
    else if pt = Config.ptRtpfb then .rtcpHdrRtpfb p rc len
    else if pt = Config.ptPsfb then .rtcpHdrPsfb p rc len
    else if pt = Config.ptXr then .rtcpHdrXr p rc len
    else .rtcpHdrAny p rc pt len
  else .decode (Buf.ofWord w)

/-- A prefix against the CLS_PREFIX rows (R69, R74). One that matches none is a CLASSIFY that answers false, so it
reads as a plain CLASSIFY of its bytes (log 4). -/
def decodeClassifierWord (h : PrefixWord) (rest : BitVec 16) : Instr :=
  let x := h.extractLsb' 8 6
  let m := h.getLsbD 7
  let pt7 := h.extractLsb' 0 7
  if h.extractLsb' 14 2 = Config.version then
    if pt7 = 72#7 then .clsPt72 x m rest
    else if pt7 = 73#7 then .clsPt73 x m rest
    else if pt7 = 74#7 then .clsPt74 x m rest
    else if pt7 = 75#7 then .clsPt75 x m rest
    else if pt7 = 76#7 then .clsPt76 x m rest
    else .classify (Buf.ofPrefix h rest)
  else .classify (Buf.ofPrefix h rest)

/-- The decoder, over every encoded form. -/
def decode : RequestWord → Decoded
  | .port c => decodePort c
  | .header w => .instr (decodeHeaderWord w)
  | .classifierWord h rest => .instr (decodeClassifierWord h rest)

/-! ### The encoder -/

/-- The header word of the fields P, RC, PT, LEN with V = 2, most significant first (R60). -/
def headerWord (p : Bool) (rc : BitVec 5) (pt : Byte) (len : BitVec 16) : HeaderWord :=
  Config.version ++ BitVec.ofBool p ++ rc ++ pt ++ len

/-- The classifier prefix: V = 2, the six ignored bits, the marker bit, the 7-bit payload type (R69). -/
def classifierPrefix (x : BitVec 6) (m : Bool) (pt7 : BitVec 7) : PrefixWord :=
  Config.version ++ x ++ BitVec.ofBool m ++ pt7

/-- The host drives a buffer onto `req_len` and the lanes that carry a byte; the other lanes stay as they are (R28). -/
def CommandPort.withBuf (c : CommandPort) : Buf → CommandPort
  | .empty => { c with len := 0 }
  | .one b0 => { c with len := 1, b0 := b0 }
  | .two b0 b1 => { c with len := 2, b0 := b0, b1 := b1 }
  | .three b0 b1 b2 => { c with len := 3, b0 := b0, b1 := b1, b2 := b2 }
  | .full b0 b1 b2 b3 extra => { c with len := extra + 4, b0 := b0, b1 := b1, b2 := b2, b3 := b3 }

/-- A request for the operation on wires that carry anything at all, its operands still to be driven. -/
def requestFor (wires : CommandPort) (op : BitVec 2) : CommandPort := { wires with valid := true, op := op }

/-- The requests of the four operations: each drives `req_valid`, `req_op` and the inputs the operation reads, and
leaves the other wires as they are (R28). -/
def classifyCommand (wires : CommandPort) (buf : Buf) : CommandPort := (requestFor wires Config.opClassify).withBuf buf
def validateCommand (wires : CommandPort) (count : Byte) : CommandPort :=
  { requestFor wires Config.opValidate with count := count }
def encodeCommand (wires : CommandPort) (h : Header) : CommandPort :=
  { requestFor wires Config.opEncode with p := h.p, count := h.count, pt := h.pt, length := h.length }
def decodeCommand (wires : CommandPort) (buf : Buf) : CommandPort := (requestFor wires Config.opDecode).withBuf buf

/-- The encoder: the word of an instruction in the form of its table row. `wires` is what the command port carries
where the request drives nothing. -/
def encode (wires : CommandPort) : Instr → RequestWord
  | .classify buf => .port (classifyCommand wires buf)
  | .validate count => .port (validateCommand wires count)
  | .encode h => .port (encodeCommand wires h)
  | .decode buf => .port (decodeCommand wires buf)
  | .rtcpHdrSr p rc len => .header (headerWord p rc Config.ptSr len)
  | .rtcpHdrRr p rc len => .header (headerWord p rc Config.ptRr len)
  | .rtcpHdrSdes p rc len => .header (headerWord p rc Config.ptSdes len)
  | .rtcpHdrBye p rc len => .header (headerWord p rc Config.ptBye len)
  | .rtcpHdrApp p rc len => .header (headerWord p rc Config.ptApp len)
  | .rtcpHdrRtpfb p rc len => .header (headerWord p rc Config.ptRtpfb len)
  | .rtcpHdrPsfb p rc len => .header (headerWord p rc Config.ptPsfb len)
  | .rtcpHdrXr p rc len => .header (headerWord p rc Config.ptXr len)
  | .rtcpHdrAny p rc pt len => .header (headerWord p rc pt len)
  | .clsPt72 x m rest => .classifierWord (classifierPrefix x m 72#7) rest
  | .clsPt73 x m rest => .classifierWord (classifierPrefix x m 73#7) rest
  | .clsPt74 x m rest => .classifierWord (classifierPrefix x m 74#7) rest
  | .clsPt75 x m rest => .classifierWord (classifierPrefix x m 75#7) rest
  | .clsPt76 x m rest => .classifierWord (classifierPrefix x m 76#7) rest

/-- What a request puts on the command port, over `wires` where it is no port sample itself: a header word is the whole buffer of a DECODE, a prefix with its two
further bytes the whole buffer of a CLASSIFY (R74; log 3). -/
def RequestWord.command (wires : CommandPort) : RequestWord → CommandPort
  | .port c => c
  | .header w => decodeCommand wires (Buf.ofWord w)
  | .classifierWord h rest => classifyCommand wires (Buf.ofPrefix h rest)

/-! ### The opcode table -/

/-- The request a table word stands for, its bits numbered as the table numbers them: up to 8 bits an operation code
on the two wires of `req_op` (log 6) with every operand wire 0, up to 16 a prefix, up to 32 a header word. -/
def RequestWord.ofTable (nbits w : Nat) : Option RequestWord :=
  if nbits = 0 then none
  else if nbits ≤ 8 then some (.port ⟨true, BitVec.ofNat 2 w, 0, 0, 0, 0, 0, false, 0, 0, 0⟩)
  else if nbits ≤ 16 then some (.classifierWord (BitVec.ofNat 16 w) 0)
  else if nbits ≤ 32 then some (.header (BitVec.ofNat 32 w))
  else none

/-- The decoder on a table word, with its named rejection. -/
def decodeTable (nbits w : Nat) : Decoded :=
  match RequestWord.ofTable nbits w with
  | some r => decode r
  | none => .rejected .notATableWidth

/-- The instruction the decoder reads from a table word. -/
def decodeTableWord (nbits w : Nat) : Option Instr :=
  match decodeTable nbits w with
  | .instr i => some i
  | .rejected _ => none

/-- A row of the opcode table: its group, and the pattern a word of that group must show under the mask. -/
inductive TableRow where
  | op (mask pattern : BitVec 2)
  | rtcpHdr (mask pattern : HeaderWord)
  | clsPrefix (mask pattern : PrefixWord)
  deriving DecidableEq, Repr

/-- The row of each constructor, transcribed from spec/opcode_table.json. -/
def Instr.row : Instr → TableRow
  | .classify _ => .op 3 0
  | .validate _ => .op 3 1
  | .encode _ => .op 3 2
  | .decode _ => .op 3 3
  | .rtcpHdrSr _ _ _ => .rtcpHdr 0xC0FF0000 0x80C80000
  | .rtcpHdrRr _ _ _ => .rtcpHdr 0xC0FF0000 0x80C90000
  | .rtcpHdrSdes _ _ _ => .rtcpHdr 0xC0FF0000 0x80CA0000
  | .rtcpHdrBye _ _ _ => .rtcpHdr 0xC0FF0000 0x80CB0000
  | .rtcpHdrApp _ _ _ => .rtcpHdr 0xC0FF0000 0x80CC0000
  | .rtcpHdrRtpfb _ _ _ => .rtcpHdr 0xC0FF0000 0x80CD0000
  | .rtcpHdrPsfb _ _ _ => .rtcpHdr 0xC0FF0000 0x80CE0000
  | .rtcpHdrXr _ _ _ => .rtcpHdr 0xC0FF0000 0x80CF0000
  | .rtcpHdrAny _ _ _ _ => .rtcpHdr 0xC0000000 0x80000000
  | .clsPt72 _ _ _ => .clsPrefix 0xC07F 0x8048
  | .clsPt73 _ _ _ => .clsPrefix 0xC07F 0x8049
  | .clsPt74 _ _ _ => .clsPrefix 0xC07F 0x804A
  | .clsPt75 _ _ _ => .clsPrefix 0xC07F 0x804B
  | .clsPt76 _ _ _ => .clsPrefix 0xC07F 0x804C

/-- An encoded request shows the row's pattern: `req_op` of a valid port sample, the header word, or the prefix. -/
def TableRow.matches : TableRow → RequestWord → Bool
  | .op mask pattern, .port c => c.valid && decide (c.op &&& mask = pattern)
  | .rtcpHdr mask pattern, .header w => decide (w &&& mask = pattern)
  | .clsPrefix mask pattern, .classifierWord h _ => decide (h &&& mask = pattern)
  | _, _ => false

end Sys2Proof
end

