-- ==== Sys2Proof/Machine/State.lean ====
section
/-! DEFINITION. The state of the machine (spec/10_state.md): the ports of the block, the abstract result of the
current transaction, and the host's side of the interface (its script and its record of responses). The block itself
keeps nothing from one transaction to the next (R30 to R33). -/

namespace Sys2Proof.Machine

/-- The three errors, a closed enumeration (60_exceptions.md R140, R141). -/
inductive Error where
  | invalidHeader
  | packetTooShort
  | badVersion
  deriving DecidableEq, Repr

/-- The result record `res` of a successful DECODE; the count is cut from 5 bits (10_state.md R24). -/
structure Record where
  p      : Bool
  count  : BitVec 5
  pt     : Byte
  length : BitVec 16
  deriving DecidableEq, Repr

/-- A response as a sum: a boolean (CLASSIFY, VALIDATE), four bytes (ENCODE), a record (DECODE), or one error and no
data (00_scope.md R12; 10_state.md R24 to R27). -/
inductive Response where
  | flag (b : Bool)
  | bytes (out : OutBuf)
  | record (res : Record)
  | error (e : Error)
  deriving DecidableEq, Repr

/-- The response port, the outputs of the block (10_state.md R29). -/
structure ResponsePort where
  valid  : Bool
  status : BitVec 2
  flag   : Bool
  b0     : Byte
  b1     : Byte
  b2     : Byte
  b3     : Byte
  p      : Bool
  count  : Byte
  pt     : Byte
  length : BitVec 16
  deriving DecidableEq, Repr

/-- Every response signal 0: no request (R29), reset (70_reset_and_hazards.md R171). -/
def ResponsePort.quiet : ResponsePort :=
  { valid := false, status := 0, flag := false, b0 := 0, b1 := 0, b2 := 0, b3 := 0, p := false, count := 0, pt := 0, length := 0 }

/-- The state. `cmd`, `rst` and `rsp` are the wires at the latest sample (R28, R29, 70_reset_and_hazards.md R171);
`result` is the abstract response of that sample, absent where there is none (R36). `script` and `trace` are the
host's: the lines still to run, and the responses so far, one entry a line (30_encoding.md R77; log 1, log 2). -/
structure State where
  script : List Line
  rst    : Bool
  cmd    : CommandPort
  rsp    : ResponsePort
  result : Option Response
  trace  : List (Option Response)
  deriving DecidableEq, Repr

/-- After reset: no request has been presented, every response signal is 0, no value exists (R36,
70_reset_and_hazards.md R170, R171). The command inputs and the host's lists are the model's choice (log 9). -/
def State.reset : State :=
  { script := []
    rst := false
    cmd := { valid := false, op := 0, len := 0, b0 := 0, b1 := 0, b2 := 0, b3 := 0, p := false, count := 0, pt := 0, length := 0 }
    rsp := ResponsePort.quiet
    result := none
    trace := [] }

/-- Nothing stops the block with a fault: the response to a request is never stuck or undefined (00_scope.md R13),
an error is a value of the response (60_exceptions.md R144; log 13). So the type has no member, and nobody raises one. -/
inductive Fault where
  deriving DecidableEq, Repr

/-- `notModelled`: an instruction of the table that has no meaning yet. Raised by exec's arms alone, by none of them
in this model. Safe: the machine stops and proves nothing. -/
inductive Refusal where
  | notModelled (mnemonic : String)
  deriving DecidableEq, Repr

end Sys2Proof.Machine
end

