-- ==== Sys2Proof/Machine/Operands.lean ====
section
/-! DEFINITION. Reading operands: the guarded byte reads of the input buffer (spec/00_scope.md R10, 20_memory.md
R43, R44), the fields of byte 0 (30_encoding.md R63), and the host's operands of a script line (30_encoding.md R75,
R77; 10_state.md R28). -/

namespace Sys2Proof.Machine

/-! ### The input buffer -/

/-- `len(buf)`, a natural number (00_scope.md R9). -/
def bufLen : Buf → Nat
  | .empty => 0
  | .one _ => 1
  | .two _ _ => 2
  | .three _ _ _ => 3
  | .full _ _ _ _ extra => extra + 4

/-- The bytes 0 to 3 that exist, index 0 first. -/
def bufBytes : Buf → List Byte
  | .empty => []
  | .one b0 => [b0]
  | .two b0 b1 => [b0, b1]
  | .three b0 b1 b2 => [b0, b1, b2]
  | .full b0 b1 b2 b3 _ => [b0, b1, b2, b3]

theorem bufBytes_length (buf : Buf) : (bufBytes buf).length = min (bufLen buf) 4 := by
  cases buf <;> simp [bufBytes, bufLen]

/-- After the length check of an operation every index of the header can be read. -/
theorem readable_of_long {buf : Buf} {i : Nat} (h : ¬ bufLen buf < 4) (hi : i < 4) : i < bufLen buf ∧ i < 4 := by
  omega

/-- `MemRead(i, 1)`. A read is written together with the proof that the byte exists and lies in the header, so no
index at or above the length, or above 3, can be read (R43). -/
def memRead8 (buf : Buf) (i : Nat) (h : i < bufLen buf ∧ i < 4) : Byte :=
  (bufBytes buf)[i]'(by rw [bufBytes_length]; omega)

/-- `MemRead(i, 2)`, big-endian: `buf[i]` is the more significant byte (R44). -/
def memRead16 (buf : Buf) (i : Nat) (h : i + 1 < bufLen buf ∧ i + 1 < 4) : BitVec 16 :=
  memRead8 buf i (by omega) ++ memRead8 buf (i + 1) h

/-! ### The fields of byte 0 (30_encoding.md R63) -/

/-- `V = b0[7:6]`. -/
def versionField (b0 : Byte) : BitVec 2 := b0.extractLsb' 6 2

/-- `P = b0[5]`, one bit and nothing else: PAD_EXTRACT = BIT5 (42_codec_decode.md R125). -/
def paddingField (b0 : Byte) : Bool := b0.getLsbD 5

/-- `RC = b0[4:0]` (42_codec_decode.md R126). -/
def countField (b0 : Byte) : BitVec 5 := b0.extractLsb' 0 5

/-! ### The host's operands -/

/-- A result record as the header operand of a later request: the count zero-extended (10_state.md R24). -/
def recordHeader (r : Record) : Header := ⟨r.p, r.count.zeroExtend 8, r.pt, r.length⟩

/-- A byte list as the block sees it: its length and its first four bytes (10_state.md R23). -/
def bufOfBytes : List Byte → Buf
  | [] => .empty
  | [b0] => .one b0
  | [b0, b1] => .two b0 b1
  | [b0, b1, b2] => .three b0 b1 b2
  | b0 :: b1 :: b2 :: b3 :: rest => .full b0 b1 b2 b3 rest.length

/-- The host presents a length that does not fit on `req_len` as the greatest one that does (10_state.md R28). -/
def saturate : Buf → Buf
  | .empty => .empty
  | .one b0 => .one b0
  | .two b0 b1 => .two b0 b1
  | .three b0 b1 b2 => .three b0 b1 b2
  | .full b0 b1 b2 b3 extra => .full b0 b1 b2 b3 (min extra (Config.maxLen - 4))

/-- A buffer operand: its bytes, or the output bytes of an earlier line; none where that line returned no bytes
(30_encoding.md R77; log 11). -/
def resolveBuf (trace : List (Option Response)) : BufArg → Option (List Byte)
  | .bytes l => some l
  | .outOf line =>
    match (trace)[line]? with
    | some (some (.bytes out)) => some [out.o0, out.o1, out.o2, out.o3]
    | _ => none

/-- A header operand: its fields, or the record of an earlier line; none where that line returned no record (R77;
log 11). -/
def resolveHdr (trace : List (Option Response)) : HdrArg → Option Header
  | .fields h => some h
  | .resOf line =>
    match (trace)[line]? with
    | some (some (.record r)) => some (recordHeader r)
    | _ => none

/-- The host's condition `if flag_line`: true when that line returned the flag 1. -/
def flagIsSet (trace : List (Option Response)) (line : Nat) : Bool :=
  match (trace)[line]? with
  | some (some (.flag b)) => b
  | _ => false

end Sys2Proof.Machine
end

