-- ==== Sys2Proof/Machine/Flags.lean ====
section
/-! DEFINITION. The flag and the status of a response: what CLASSIFY (spec/40_classifier.md R90) and VALIDATE
(41_codec_encode.md R100) answer, and the status codes (60_exceptions.md R141). -/

namespace Sys2Proof.Machine

/-- The classification of R90: the length guards the byte reads, then the version, then the 7-bit payload type
against both ends of the range. -/
def classifyFlag (buf : Buf) : Bool :=
  if h : bufLen buf < Config.minRtcpSize then false
  else
    let b0 := memRead8 buf 0 (readable_of_long h (by decide))
    let b1 := memRead8 buf 1 (readable_of_long h (by decide))
    if versionField b0 ≠ Config.version then false
    else
      let pt7 := b1 &&& Config.ptMask
      if pt7 < Config.ptConflictLo then false
      else if Config.ptConflictHi < pt7 then false
      else true

/-- The structural validity of R100: the count alone. -/
def validateFlag (count : Byte) : Bool :=
  if Config.countMax < count then false else true

/-- The 2-bit code of an error (R141). -/
def errorStatus : Error → BitVec 2
  | .invalidHeader => 1
  | .packetTooShort => 2
  | .badVersion => 3

/-- The 2-bit status of a response: OK is 0 (R141). -/
def responseStatus : Response → BitVec 2
  | .flag _ => 0
  | .bytes _ => 0
  | .record _ => 0
  | .error e => errorStatus e

end Sys2Proof.Machine
end

