-- ==== Sys2Proof/Machine/Ops.lean ====
section
/-! DEFINITION. The shared operations of the meanings: driving a response onto the port (spec/10_state.md R29),
completing a transaction, delivering an error (60_exceptions.md R144, R145), assembling the four output bytes
(30_encoding.md R64), and the parse of a buffer (42_codec_decode.md R120). The block has no other memory operation
and no return from an error (60_exceptions.md R147). -/

namespace Sys2Proof.Machine

/-- The signals that carry a response. Whatever the response does not drive is 0 (10_state.md R29; 60_exceptions.md
R145). -/
def driveResponse (r : Response) : ResponsePort :=
  match r with
  | .flag b => { ResponsePort.quiet with valid := true, status := responseStatus r, flag := b }
  | .bytes out =>
    { ResponsePort.quiet with valid := true, status := responseStatus r, b0 := out.o0, b1 := out.o1, b2 := out.o2, b3 := out.o3 }
  | .record res =>
    { ResponsePort.quiet with
      valid := true, status := responseStatus r, p := res.p, count := res.count.zeroExtend 8, pt := res.pt, length := res.length }
  | .error _ => { ResponsePort.quiet with valid := true, status := responseStatus r }

/-- A transaction ends with its one response: on the port, as the abstract result, and in the host's record
(00_scope.md R13; 30_encoding.md R77). Nothing else changes (10_state.md R33). -/
def respond (r : Response) (s : State) : Host.Outcome State Fault Refusal :=
  .next { s with rsp := driveResponse r, result := some r, trace := s.trace ++ [some r] }

/-- `raise E` (60_exceptions.md R144): the operation ends with that error and no data. No state is saved, no mode
changes, no control is transferred; the error is delivered in the response of its own transaction. -/
def raise (e : Error) (s : State) : Host.Outcome State Fault Refusal := respond (.error e) s

/-- The four output bytes of a header with a legal count (30_encoding.md R64): version, padding bit and count OR'd
into byte 0, the payload type, the length big-endian. -/
def assemble (h : Header) : OutBuf :=
  { o0 := (Config.version.zeroExtend 8 <<< 6) ||| ((BitVec.ofBool h.p).zeroExtend 8 <<< 5) ||| (h.count.extractLsb' 0 5).zeroExtend 8
    o1 := h.pt
    o2 := h.length.extractLsb' 8 8
    o3 := h.length.extractLsb' 0 8 }

/-- ENCODE (41_codec_encode.md R103): the count's bound first, then the bytes. -/
def encodeHeader (h : Header) (s : State) : Host.Outcome State Fault Refusal :=
  if Config.countMax < h.count then raise .invalidHeader s else respond (.bytes (assemble h)) s

/-- DECODE (42_codec_decode.md R120): the length first, then the version, then the fields. -/
def decodeBuffer (buf : Buf) (s : State) : Host.Outcome State Fault Refusal :=
  if h : bufLen buf < Config.headerSize then raise .packetTooShort s
  else
    let b0 := memRead8 buf 0 (readable_of_long h (by decide))
    if versionField b0 ≠ Config.version then raise .badVersion s
    else
      respond (.record
        { p := paddingField b0
          count := countField b0
          pt := memRead8 buf 1 (readable_of_long h (by decide))
          length := memRead16 buf 2 (readable_of_long h (by decide)) }) s

/-- CLASSIFY (40_classifier.md R90): the flag, never an error (R92). -/
def classifyBuffer (buf : Buf) (s : State) : Host.Outcome State Fault Refusal := respond (.flag (classifyFlag buf)) s

end Sys2Proof.Machine
end

