-- ==== Sys2Proof/Machine/Classifier.lean ====
section
/-! DEFINITION. The packet classifier (spec/40_classifier.md): CLASSIFY, and the five prefix rows of the opcode
table, each the CLASSIFY of a four-byte buffer that begins with the row's prefix (30_encoding.md R69, R74). -/

namespace Sys2Proof.Machine

/-- R90. -/
def execClassify (buf : Buf) (s : State) : Host.Outcome State Fault Refusal := classifyBuffer buf s

/-- R90 on a prefix of row CLS_PT72. -/
def execClsPt72 (x : BitVec 6) (m : Bool) (rest : BitVec 16) (s : State) : Host.Outcome State Fault Refusal :=
  classifyBuffer (Buf.ofPrefix (classifierPrefix x m 72#7) rest) s

/-- R90 on a prefix of row CLS_PT73. -/
def execClsPt73 (x : BitVec 6) (m : Bool) (rest : BitVec 16) (s : State) : Host.Outcome State Fault Refusal :=
  classifyBuffer (Buf.ofPrefix (classifierPrefix x m 73#7) rest) s

/-- R90 on a prefix of row CLS_PT74. -/
def execClsPt74 (x : BitVec 6) (m : Bool) (rest : BitVec 16) (s : State) : Host.Outcome State Fault Refusal :=
  classifyBuffer (Buf.ofPrefix (classifierPrefix x m 74#7) rest) s

/-- R90 on a prefix of row CLS_PT75. -/
def execClsPt75 (x : BitVec 6) (m : Bool) (rest : BitVec 16) (s : State) : Host.Outcome State Fault Refusal :=
  classifyBuffer (Buf.ofPrefix (classifierPrefix x m 75#7) rest) s

/-- R90 on a prefix of row CLS_PT76. -/
def execClsPt76 (x : BitVec 6) (m : Bool) (rest : BitVec 16) (s : State) : Host.Outcome State Fault Refusal :=
  classifyBuffer (Buf.ofPrefix (classifierPrefix x m 76#7) rest) s

end Sys2Proof.Machine
end

