-- ==== Sys2Proof/Machine/CodecDecode.lean ====
section
/-! DEFINITION. The codec, incoming direction (spec/42_codec_decode.md): DECODE, and the nine header-word rows of
the opcode table, each the DECODE of the four bytes of its header word (30_encoding.md R66, R67, R74). -/

namespace Sys2Proof.Machine

/-- R120. -/
def execDecode (buf : Buf) (s : State) : Host.Outcome State Fault Refusal := decodeBuffer buf s

/-- R120 on a header word of row RTCP_HDR_SR. -/
def execRtcpHdrSr (p : Bool) (rc : BitVec 5) (len : BitVec 16) (s : State) : Host.Outcome State Fault Refusal :=
  decodeBuffer (Buf.ofWord (headerWord p rc Config.ptSr len)) s

/-- R120 on a header word of row RTCP_HDR_RR. -/
def execRtcpHdrRr (p : Bool) (rc : BitVec 5) (len : BitVec 16) (s : State) : Host.Outcome State Fault Refusal :=
  decodeBuffer (Buf.ofWord (headerWord p rc Config.ptRr len)) s

/-- R120 on a header word of row RTCP_HDR_SDES. -/
def execRtcpHdrSdes (p : Bool) (rc : BitVec 5) (len : BitVec 16) (s : State) : Host.Outcome State Fault Refusal :=
  decodeBuffer (Buf.ofWord (headerWord p rc Config.ptSdes len)) s

/-- R120 on a header word of row RTCP_HDR_BYE. -/
def execRtcpHdrBye (p : Bool) (rc : BitVec 5) (len : BitVec 16) (s : State) : Host.Outcome State Fault Refusal :=
  decodeBuffer (Buf.ofWord (headerWord p rc Config.ptBye len)) s

/-- R120 on a header word of row RTCP_HDR_APP. -/
def execRtcpHdrApp (p : Bool) (rc : BitVec 5) (len : BitVec 16) (s : State) : Host.Outcome State Fault Refusal :=
  decodeBuffer (Buf.ofWord (headerWord p rc Config.ptApp len)) s

/-- R120 on a header word of row RTCP_HDR_RTPFB. -/
def execRtcpHdrRtpfb (p : Bool) (rc : BitVec 5) (len : BitVec 16) (s : State) : Host.Outcome State Fault Refusal :=
  decodeBuffer (Buf.ofWord (headerWord p rc Config.ptRtpfb len)) s

/-- R120 on a header word of row RTCP_HDR_PSFB. -/
def execRtcpHdrPsfb (p : Bool) (rc : BitVec 5) (len : BitVec 16) (s : State) : Host.Outcome State Fault Refusal :=
  decodeBuffer (Buf.ofWord (headerWord p rc Config.ptPsfb len)) s

/-- R120 on a header word of row RTCP_HDR_XR. -/
def execRtcpHdrXr (p : Bool) (rc : BitVec 5) (len : BitVec 16) (s : State) : Host.Outcome State Fault Refusal :=
  decodeBuffer (Buf.ofWord (headerWord p rc Config.ptXr len)) s

/-- R120 on a header word of row RTCP_HDR_ANY: the payload type is passed through (R127). -/
def execRtcpHdrAny (p : Bool) (rc : BitVec 5) (pt : Byte) (len : BitVec 16) (s : State) : Host.Outcome State Fault Refusal :=
  decodeBuffer (Buf.ofWord (headerWord p rc pt len)) s

end Sys2Proof.Machine
end

