-- ==== Sys2Proof/Machine/CodecEncode.lean ====
section
/-! DEFINITION. The codec, outgoing direction (spec/41_codec_encode.md): VALIDATE and ENCODE. -/

namespace Sys2Proof.Machine

/-- R100, R101: the verdict on the count, never an error. -/
def execValidate (count : Byte) (s : State) : Host.Outcome State Fault Refusal := respond (.flag (validateFlag count)) s

/-- R103. -/
def execEncode (hdr : Header) (s : State) : Host.Outcome State Fault Refusal := encodeHeader hdr s

end Sys2Proof.Machine
end

