-- ==== Sys2Proof/Machine/Dispatch.lean ====
section
/-! DEFINITION. One arm per row of spec/opcode_table.json: each instruction's meaning, called directly. -/

namespace Sys2Proof.Machine

def exec (i : Instr) (s : State) : Host.Outcome State Fault Refusal :=
  match i with
  | .classify buf => Sys2Proof.Machine.execClassify buf s
  | .validate count => Sys2Proof.Machine.execValidate count s
  | .encode hdr => Sys2Proof.Machine.execEncode hdr s
  | .decode buf => Sys2Proof.Machine.execDecode buf s
  | .rtcpHdrSr p rc len => Sys2Proof.Machine.execRtcpHdrSr p rc len s
  | .rtcpHdrRr p rc len => Sys2Proof.Machine.execRtcpHdrRr p rc len s
  | .rtcpHdrSdes p rc len => Sys2Proof.Machine.execRtcpHdrSdes p rc len s
  | .rtcpHdrBye p rc len => Sys2Proof.Machine.execRtcpHdrBye p rc len s
  | .rtcpHdrApp p rc len => Sys2Proof.Machine.execRtcpHdrApp p rc len s
  | .rtcpHdrRtpfb p rc len => Sys2Proof.Machine.execRtcpHdrRtpfb p rc len s
  | .rtcpHdrPsfb p rc len => Sys2Proof.Machine.execRtcpHdrPsfb p rc len s
  | .rtcpHdrXr p rc len => Sys2Proof.Machine.execRtcpHdrXr p rc len s
  | .rtcpHdrAny p rc pt len => Sys2Proof.Machine.execRtcpHdrAny p rc pt len s
  | .clsPt72 x m rest => Sys2Proof.Machine.execClsPt72 x m rest s
  | .clsPt73 x m rest => Sys2Proof.Machine.execClsPt73 x m rest s
  | .clsPt74 x m rest => Sys2Proof.Machine.execClsPt74 x m rest s
  | .clsPt75 x m rest => Sys2Proof.Machine.execClsPt75 x m rest s
  | .clsPt76 x m rest => Sys2Proof.Machine.execClsPt76 x m rest s

end Sys2Proof.Machine
end

