-- ==== Sys2Proof/Machine/Script.lean ====
section
/-! DEFINITION. The host's side of a step: what a script line presents to the block (spec/30_encoding.md R75, R77),
the transfer of that onto the command port (10_state.md R28), and the pseudo-operations RECV and SEND (R78). -/

namespace Sys2Proof.Machine

/-- What the host presents for a line: nothing (`req_valid` = 0), a port sample under an asserted reset input, or a
request. -/
inductive Presented where
  | nothing
  | underReset (c : CommandPort)
  | request (w : RequestWord)
  deriving DecidableEq, Repr

/-- A line against the responses so far. A literal line presents its request, its buffer saturated to the port; a
line that names an earlier response presents that value, or nothing where there is none; a line under a host
condition presents nothing where the flag is not set (R77; log 11). -/
def present (trace : List (Option Response)) : Line → Presented
  | .word w => .request w
  | .classify b =>
    match resolveBuf trace b with
    | some l => .request (encode (Config.undriven trace.length) (.classify (saturate (bufOfBytes l))))
    | none => .nothing
  | .validate h =>
    match resolveHdr trace h with
    | some hdr => .request (encode (Config.undriven trace.length) (.validate hdr.count))
    | none => .nothing
  | .encode h =>
    match resolveHdr trace h with
    | some hdr => .request (encode (Config.undriven trace.length) (.encode hdr))
    | none => .nothing
  | .decode b =>
    match resolveBuf trace b with
    | some l => .request (encode (Config.undriven trace.length) (.decode (saturate (bufOfBytes l))))
    | none => .nothing
  | .onFlag line l => if flagIsSet trace line then present trace l else .nothing
  | .underReset c => .underReset c

/-- What the wires carry where the present line drives nothing: the free value of the line's number (log 8). -/
def wires (s : State) : CommandPort := Config.undriven s.trace.length

/-- The command port where the host presents nothing: `req_valid` is 0, the other wires carry the free value. -/
def idleCommand (s : State) : CommandPort := { wires s with valid := false }

/-- The line leaves the script and its request stands on the command port, reset released. -/
def acceptRequest (w : RequestWord) (rest : List Line) (s : State) : State :=
  { s with script := rest, rst := false, cmd := w.command (wires s) }

/-- A line without a response: every response signal 0, no result, an empty entry in the host's record (10_state.md
R29; 70_reset_and_hazards.md R171). -/
def noResponse (rst : Bool) (c : CommandPort) (rest : List Line) (s : State) : State :=
  { s with script := rest, rst := rst, cmd := c, rsp := ResponsePort.quiet, result := none, trace := s.trace ++ [none] }

/-- No line is left: nothing is presented and nothing is pending (70_reset_and_hazards.md R181; log 12). -/
def idle (s : State) : State :=
  { s with cmd := idleCommand s, rsp := ResponsePort.quiet, result := none }

/-- `RECV buf` (R78), run as line number `line`: classify, and decode only what was classified as control. -/
def recvScript (line : Nat) (buf : List Byte) : List Line :=
  [.classify (.bytes buf), .onFlag line (.decode (.bytes buf))]

/-- `SEND hdr` (R78): encode, which applies the VALIDATE condition itself. -/
def sendScript (hdr : Header) : List Line := [.encode (.fields hdr)]

end Sys2Proof.Machine
end

