-- ==== Sys2Proof/Machine/Step.lean ====
section
/-! DEFINITION. One step is one transaction (spec/00_scope.md R13): the next line of the host's script is presented,
the request on the command port is decoded, and its operation answers. -/

namespace Sys2Proof.Machine

/-- A step. Without a line the ports are idle. Under an asserted reset input a request is not accepted
(70_reset_and_hazards.md R171); a sample with `req_valid` = 0 is no request (10_state.md R28, R29). -/
def step (s : State) : Host.Outcome State Fault Refusal :=
  match s.script with
  | [] => .next (idle s)
  | line :: rest =>
    match present s.trace line with
    | .nothing => .next (noResponse false (idleCommand s) rest s)
    | .underReset c => .next (noResponse true c rest s)
    | .request w =>
      match decode w with
      | .instr i => exec i (acceptRequest w rest s)
      | .rejected _ => .next (noResponse false (w.command (wires s)) rest s)

/-- The state with a table word as the host's next line, before the lines it already holds (log 16). -/
def State.withFetchWord (s : State) (nbits w : Nat) : State :=
  match RequestWord.ofTable nbits w with
  | some r => { s with script := .word r :: s.script }
  | none => s

end Sys2Proof.Machine
end

