-- ==== Sys2Proof/Safety.lean ====
section
/-! DEFINITION. The terms claims are stated in: the response port as signal equations over the command port
(spec/10_state.md R29), the legal response (R34), and the invariant of the machine. -/

namespace Sys2Proof.Machine

/-- The response port as a combinational function of the command port and the reset input, signal by signal on the
wires (10_state.md R28, R29; 60_exceptions.md R141, R145; 70_reset_and_hazards.md R171; the classifier by the
patterns of 30_encoding.md R69). Written without the operations of the machine, to be compared with it. -/
def portEquations (rst : Bool) (c : CommandPort) : ResponsePort :=
  let on := c.valid && !rst
  let long := decide (4 ≤ c.len)
  let v2 := decide (c.b0 &&& 0xC0 = 0x80)
  let h := (c.b0 ++ c.b1) &&& (0xC07F : BitVec 16)
  let control := h == 0x8048 || h == 0x8049 || h == 0x804A || h == 0x804B || h == 0x804C
  let small := decide (c.count &&& 0xE0 = 0)
  let encOk := on && c.op == 2 && small
  let decOk := on && c.op == 3 && long && v2
  { valid := on
    status :=
      if on && c.op == 2 && !small then 1
      else if on && c.op == 3 && !long then 2
      else if on && c.op == 3 && long && !v2 then 3
      else 0
    flag := on && ((c.op == 0 && long && control) || (c.op == 1 && small))
    b0 := if encOk then 0x80 ||| (if c.p then 0x20 else 0) ||| c.count else 0
    b1 := if encOk then c.pt else 0
    b2 := if encOk then c.length.extractLsb' 8 8 else 0
    b3 := if encOk then c.length.extractLsb' 0 8 else 0
    p := decOk && c.b0.getLsbD 5
    count := if decOk then c.b0 &&& 0x1F else 0
    pt := if decOk then c.b1 else 0
    length := if decOk then c.b2 ++ c.b3 else 0 }

/-- Every output ENCODE returns begins with version 2 (10_state.md R34); the other responses carry no illegal
value by their types (a record's count has 5 bits). -/
def Response.legal : Response → Bool
  | .flag _ => true
  | .bytes out => decide (out.o0.extractLsb' 6 2 = Config.version)
  | .record _ => true
  | .error _ => true

/-- The invariant: the response port is the function of the command port and the reset input that R29 and R171 give;
it carries the abstract result, or is quiet where there is none; every response, the present one and each in the
host's record, is legal. -/
structure State.Inv (s : State) : Prop where
  combinational : s.rsp = portEquations s.rst s.cmd
  carries : s.rsp = (match s.result with | some r => driveResponse r | none => ResponsePort.quiet)
  resultLegal : ∀ r, s.result = some r → r.legal = true
  traceLegal : ∀ r, some r ∈ s.trace → r.legal = true

end Sys2Proof.Machine
end

