-- ==== Sys2Proof/Certificates/Slice0/Obligations.lean ====
section
/-! DEFINITION. The statements about the machine, for the provers. Bit fields are written here as arithmetic on
numbers, apart from the shifts and slices the meanings use. A docstring that names a rule says which sentence of spec/
the statement formalises; "the spec's inference" marks a rule the spec itself derives, "the model's choice" a log entry. -/

namespace Sys2Proof.Claims

open Sys2Proof.Machine

/-- The state `s` after the answer `r` carried by `port`: nothing but the response side changes. -/
def answered (s : State) (r : Response) (port : ResponsePort) : State :=
  { s with result := some r, rsp := port, trace := s.trace ++ [some r] }

/-- The port of a boolean answer (spec/10_state.md R29): status 0, every data output 0. -/
def flagPort (b : Bool) : ResponsePort := ⟨true, 0, b, 0, 0, 0, 0, false, 0, 0, 0⟩

/-- The port of four output bytes (R29). -/
def bytesPort (o0 o1 o2 o3 : Byte) : ResponsePort := ⟨true, 0, false, o0, o1, o2, o3, false, 0, 0, 0⟩

/-- The port of a result record (R29). -/
def recordPort (p : Bool) (count pt : Byte) (length : BitVec 16) : ResponsePort :=
  ⟨true, 0, false, 0, 0, 0, 0, p, count, pt, length⟩

/-- The port of an error (spec/60_exceptions.md R145). -/
def errorPort (code : BitVec 2) : ResponsePort := ⟨true, code, false, 0, 0, 0, 0, false, 0, 0, 0⟩

/-- The answer of a header row: P, RC, PT, LEN as the word holds them. -/
def recordAnswered (s : State) (p : Bool) (rc : BitVec 5) (pt : Byte) (len : BitVec 16) : State :=
  answered s (.record ⟨p, rc, pt, len⟩) (recordPort p (BitVec.ofNat 8 rc.toNat) pt len)

/-- The abstract response of an instruction executed in a state. -/
def responseOf (i : Instr) (s : State) : Option Response :=
  match exec i s with
  | .next t => t.result
  | .fault _ => none
  | .refused _ => none

/-- The response a request word gets: a function of the word alone. -/
def wordResponse (w : RequestWord) : Option Response :=
  match decode w with
  | .instr i => responseOf i State.reset
  | .rejected _ => none

/-- The error a status code stands for (spec/60_exceptions.md R141). -/
def errorOfStatus (code : BitVec 2) : Option Error :=
  if code = 0 then none else if code = 1 then some .invalidHeader else if code = 2 then some .packetTooShort else some .badVersion

/-- The error in a response, if it is one. -/
def errorIn : Option Response → Option Error
  | some (.error e) => some e
  | _ => none

/-- Two samples of the command port that agree on `req_valid`, and where it is 1 on `req_op` and on the inputs the
selected operation reads: of the length only whether it reaches 4, of the lanes only those read after that check
(spec/10_state.md R28; spec/20_memory.md R43, R46). -/
def SameRequest (c d : CommandPort) : Prop :=
  c.valid = d.valid ∧
  (c.valid = true → c.op = d.op ∧
    ((c.op = 0 ∨ c.op = 3) → ((4 ≤ c.len) ↔ (4 ≤ d.len)) ∧ (4 ≤ c.len → c.b0 = d.b0 ∧ c.b1 = d.b1)) ∧
    (c.op = 3 → 4 ≤ c.len → c.b2 = d.b2 ∧ c.b3 = d.b3) ∧
    ((c.op = 1 ∨ c.op = 2) → c.count = d.count) ∧
    (c.op = 2 → c.p = d.p ∧ c.pt = d.pt ∧ c.length = d.length))

end Sys2Proof.Claims

section
open Sys2Proof Sys2Proof.Machine Sys2Proof.Claims

/-! ### Reset and the step -/

/-- 10_state.md section 5 (R36), R29, 70_reset_and_hazards.md R171: after reset no request has been presented, no
value exists, and every response signal is 0. -/
def Obligations.ResetLeavesThePortQuiet : Prop :=
  State.reset.cmd.valid = false ∧ State.reset.result = none ∧
  State.reset.rsp = ⟨false, 0, false, 0, 0, 0, 0, false, 0, 0, 0⟩

/-- The invariant holds after reset. -/
def Obligations.ResetMeetsTheInvariant : Prop := State.reset.Inv

/-- Every step, from every state that meets the invariant, gives a state that meets it: the response port stays the
function of the command port and the reset input (10_state.md R29, 70_reset_and_hazards.md R171), it carries the abstract
result, and every response is legal (10_state.md R34). -/
def Obligations.StepKeepsTheInvariant : Prop :=
  ∀ s t : State, s.Inv → step s = .next t → t.Inv

/-- 00_scope.md R13, 70_reset_and_hazards.md R181: nothing gets stuck. Every step answers a next state, one line
leaves the script, and the host's record grows by one entry for it (the lines and the record are the model's choice,
log 1, log 2). -/
def Obligations.StepAlwaysAnswersNext : Prop :=
  ∀ s : State, ∃ t, step s = .next t ∧ t.script = s.script.tail ∧
    (s.script = [] → t.trace = s.trace) ∧ (s.script ≠ [] → t.trace = s.trace ++ [t.result])

/-- A step runs the decoded instruction: when the host's next line presents the word `w` and `w` decodes to `i`, the
step is exec of `i`, in the state whose command port carries that request. -/
def Obligations.StepRunsTheDecodedInstruction : Prop :=
  ∀ (s : State) (line : Line) (rest : List Line) (w : RequestWord) (i : Instr),
    s.script = line :: rest → present s.trace line = .request w → decode w = .instr i →
    step s = exec i { s with script := rest, rst := false, cmd := w.command (wires s) }

/-- The same for a literal line: the encoded word of any well-formed instruction, placed first in the script, runs
as that instruction. -/
def Obligations.StepRunsAnEncodedInstruction : Prop :=
  ∀ (s : State) (rest : List Line) (i : Instr) (c : CommandPort),
    i.wellFormed = true → s.script = .word (encode c i) :: rest →
    step s = exec i { s with script := rest, rst := false, cmd := (encode c i).command (wires s) }

/-- 10_state.md R28, R29: a sample with `req_valid` = 0 has no influence and every response signal is 0; the same
with no line left (70_reset_and_hazards.md R181; log 12, the model's choice). -/
def Obligations.WithoutARequestTheResponseIsZero : Prop :=
  (∀ (s : State) (c : CommandPort) (rest : List Line), s.script = .word (.port c) :: rest → c.valid = false →
    step s = .next { s with
      script := rest, rst := false, cmd := c, rsp := ⟨false, 0, false, 0, 0, 0, 0, false, 0, 0, 0⟩,
      result := none, trace := s.trace ++ [none] }) ∧
  (∀ s : State, s.script = [] → ∃ t, step s = .next t ∧ t.cmd.valid = false ∧
    t.rsp = ⟨false, 0, false, 0, 0, 0, 0, false, 0, 0, 0⟩ ∧ t.result = none ∧ t.trace = s.trace ∧ t.script = [])

/-- 70_reset_and_hazards.md R171: a request presented while reset is asserted is not accepted and gets no response;
every response signal is 0 (how a line asserts reset is the model's choice, log 10). -/
def Obligations.UnderResetNoRequestIsAnswered : Prop :=
  ∀ (s : State) (c : CommandPort) (rest : List Line), s.script = .underReset c :: rest →
    step s = .next { s with
      script := rest, rst := true, cmd := c, rsp := ⟨false, 0, false, 0, 0, 0, 0, false, 0, 0, 0⟩,
      result := none, trace := s.trace ++ [none] }

/-! ### CLASSIFY -/

/-- 40_classifier.md R90, for every buffer and in every state: the four conditions give the flag, the status is OK,
every data output is 0, and no state but the response is written. -/
def Obligations.ClassifyAnswersTheFlag : Prop :=
  (∀ (b0 b1 b2 b3 : Byte) (extra : Nat) (s : State),
    exec (.classify (.full b0 b1 b2 b3 extra)) s =
      .next (answered s
        (.flag (decide (b0.toNat / 64 = 2 ∧ 72 ≤ b1.toNat % 128 ∧ b1.toNat % 128 ≤ 76)))
        (flagPort (decide (b0.toNat / 64 = 2 ∧ 72 ≤ b1.toNat % 128 ∧ b1.toNat % 128 ≤ 76))))) ∧
  (∀ (l : List Byte) (s : State), l.length < 4 →
    exec (.classify (bufOfBytes l)) s = .next (answered s (.flag false) (flagPort false)))

/-- 30_encoding.md R74, 40_classifier.md R90: a buffer that begins with a prefix of one of the five CLS_PREFIX rows,
whatever its ignored bits, its marker bit and the two bytes after it, is answered true. -/
def Obligations.ClassifierRowsAnswerTrue : Prop :=
  ∀ (x : BitVec 6) (m : Bool) (rest : BitVec 16) (s : State),
    exec (.clsPt72 x m rest) s = .next (answered s (.flag true) (flagPort true)) ∧
    exec (.clsPt73 x m rest) s = .next (answered s (.flag true) (flagPort true)) ∧
    exec (.clsPt74 x m rest) s = .next (answered s (.flag true) (flagPort true)) ∧
    exec (.clsPt75 x m rest) s = .next (answered s (.flag true) (flagPort true)) ∧
    exec (.clsPt76 x m rest) s = .next (answered s (.flag true) (flagPort true))

/-- 30_encoding.md R69 (the spec's inference): CLASSIFY answers true exactly for the five masked patterns, which is
`buf[0]` in 0x80 to 0xBF and `buf[1]` in 72 to 76 or in 200 to 204. -/
def Obligations.ClassifyAcceptsThePrefixPatterns : Prop :=
  ∀ (b0 b1 b2 b3 : Byte) (extra : Nat) (s : State),
    (responseOf (.classify (.full b0 b1 b2 b3 extra)) s = some (.flag true) ↔
      (b0 ++ b1) &&& 0xC07F#16 ∈ [0x8048#16, 0x8049#16, 0x804A#16, 0x804B#16, 0x804C#16]) ∧
    (responseOf (.classify (.full b0 b1 b2 b3 extra)) s = some (.flag true) ↔
      (0x80 ≤ b0.toNat ∧ b0.toNat ≤ 0xBF) ∧
        ((72 ≤ b1.toNat ∧ b1.toNat ≤ 76) ∨ (200 ≤ b1.toNat ∧ b1.toNat ≤ 204)))

/-- 30_encoding.md R69 (the spec's inference): of the 65536 two-byte prefixes exactly 640 are accepted. -/
def Obligations.ClassifyAcceptsExactly640Prefixes : Prop :=
  ∀ (b2 b3 : Byte) (extra : Nat) (s : State),
    (List.range 65536).countP (fun n =>
      decide (responseOf (.classify (.full (BitVec.ofNat 8 (n / 256)) (BitVec.ofNat 8 (n % 256)) b2 b3 extra)) s =
        some (.flag true))) = 640

/-- 40_classifier.md R93 (the spec's inference): beyond the length check only the top two bits of `buf[0]` and the low
seven bits of `buf[1]` have an influence. -/
def Obligations.ClassifyIgnoresEverythingElse : Prop :=
  ∀ (b0 b1 b2 b3 c0 c1 c2 c3 : Byte) (e e' : Nat) (s : State),
    b0.toNat / 64 = c0.toNat / 64 → b1.toNat % 128 = c1.toNat % 128 →
    exec (.classify (.full b0 b1 b2 b3 e)) s = exec (.classify (.full c0 c1 c2 c3 e')) s

/-- 30_encoding.md R66, 40_classifier.md R93 (the spec's inference): of the named payload types CLASSIFY accepts the
header words of 200 to 204 and rejects those of 205, 206 and 207. -/
def Obligations.FeedbackAndReportTypesAreNotClassified : Prop :=
  ∀ (p : Bool) (rc : BitVec 5) (pt : Byte) (len : BitVec 16) (s : State), namedPt pt = true →
    responseOf (.classify (Buf.ofWord (headerWord p rc pt len))) s = some (.flag (decide (pt.toNat ≤ 204)))

/-! ### VALIDATE and ENCODE -/

/-- 41_codec_encode.md R100: the flag is `hdr.count <= 31`, status OK, no bytes, no record, no state; and on the
command port no input but the count decides it. -/
def Obligations.ValidateAnswersTheCountBound : Prop :=
  (∀ (count : Byte) (s : State), exec (.validate count) s =
    .next (answered s (.flag (decide (count.toNat ≤ 31))) (flagPort (decide (count.toNat ≤ 31))))) ∧
  (∀ (s : State) (c : CommandPort) (rest : List Line), s.script = .word (.port c) :: rest → c.valid = true → c.op = 1 →
    step s = .next (answered { s with script := rest, rst := false, cmd := c }
      (.flag (decide (c.count.toNat ≤ 31))) (flagPort (decide (c.count.toNat ≤ 31)))))

/-- 41_codec_encode.md R104, R105: the four bytes of a header with a legal count, and status OK. `out[0]` is
`0x80 + 0x20 * hdr.P + hdr.count`, in 0x80 to 0xBF, with bit 5 equal to P; `out[1]` the payload type; `out[2]` and
`out[3]` the raw length, big-endian. -/
def Obligations.EncodeWritesTheFourBytes : Prop :=
  ∀ (h : Header) (s : State), h.count.toNat ≤ 31 →
    ∃ o0 : Byte,
      exec (.encode h) s = .next (answered s
        (.bytes ⟨o0, h.pt, BitVec.ofNat 8 (h.length.toNat / 256), BitVec.ofNat 8 (h.length.toNat % 256)⟩)
        (bytesPort o0 h.pt (BitVec.ofNat 8 (h.length.toNat / 256)) (BitVec.ofNat 8 (h.length.toNat % 256)))) ∧
      o0.toNat = 0x80 + 0x20 * h.p.toNat + h.count.toNat ∧ 0x80 ≤ o0.toNat ∧ o0.toNat ≤ 0xBF ∧
      (o0.getLsbD 5 = true ↔ h.p = true) ∧ o0.toNat / 64 = 2

/-- 41_codec_encode.md R106: ENCODE fails with `InvalidHeader` exactly when the count exceeds 31, with no bytes, and
only ENCODE fails so. -/
def Obligations.EncodeRefusesACountAbove31 : Prop :=
  (∀ (h : Header) (s : State), 31 < h.count.toNat →
    exec (.encode h) s = .next (answered s (.error .invalidHeader) (errorPort 1))) ∧
  (∀ (i : Instr) (s t : State), exec i s = .next t → t.result = some (.error .invalidHeader) →
    ∃ h : Header, i = .encode h ∧ 31 < h.count.toNat)

/-- 30_encoding.md R72: the three OR terms of `out[0]` occupy disjoint bits, so the OR is the sum and the
concatenation of version, padding bit and count bits. -/
def Obligations.EncodeOrTermsAreDisjoint : Prop :=
  ∀ (p : Bool) (count pt : Byte) (length : BitVec 16), count.toNat ≤ 31 →
    let v : Byte := 0x80
    let q : Byte := if p then 0x20 else 0x00
    v &&& q = 0 ∧ v &&& count = 0 ∧ q &&& count = 0 ∧
    (assemble ⟨p, count, pt, length⟩).o0 = v ||| q ||| count ∧
    (assemble ⟨p, count, pt, length⟩).o0.toNat = v.toNat + q.toNat + count.toNat ∧
    (assemble ⟨p, count, pt, length⟩).o0 = 2#2 ++ BitVec.ofBool p ++ count.extractLsb' 0 5

/-- 41_codec_encode.md R102 (the spec's inference): ENCODE succeeds exactly when VALIDATE is true. -/
def Obligations.ValidateIsTheEncodeGate : Prop :=
  ∀ (h : Header) (s s' : State),
    responseOf (.validate h.count) s = some (.flag true) ↔ ∃ out, responseOf (.encode h) s' = some (.bytes out)

/-- 41_codec_encode.md R108 (the spec's inference): ENCODE is injective on valid headers. -/
def Obligations.EncodeIsInjective : Prop :=
  ∀ (h k : Header) (s s' : State) (out : OutBuf),
    responseOf (.encode h) s = some (.bytes out) → responseOf (.encode k) s' = some (.bytes out) → h = k

/-- 41_codec_encode.md R108 (the spec's inference): CLASSIFY of the four bytes ENCODE returns is true exactly when the
payload type's low seven bits lie in 72 to 76. -/
def Obligations.ClassifyOfAnEncodedHeader : Prop :=
  ∀ (h : Header) (s s' : State) (out : OutBuf), responseOf (.encode h) s = some (.bytes out) →
    responseOf (.classify (bufOfBytes [out.o0, out.o1, out.o2, out.o3])) s' =
      some (.flag (decide (72 ≤ h.pt.toNat % 128 ∧ h.pt.toNat % 128 ≤ 76)))

/-! ### DECODE and the header rows -/

/-- 30_encoding.md R63: for a buffer of four or more bytes with version 2, DECODE answers the record of the fields:
P is bit 5 of byte 0 alone, RC its low five bits, PT the whole byte 1, LEN bytes 2 and 3 big-endian, all as they
stand; trailing bytes play no part. -/
def Obligations.DecodeReturnsTheFields : Prop :=
  ∀ (b0 b1 b2 b3 : Byte) (extra : Nat) (s : State), b0.toNat / 64 = 2 →
    exec (.decode (.full b0 b1 b2 b3 extra)) s =
      .next (answered s
        (.record ⟨decide (b0.toNat / 32 % 2 = 1), BitVec.ofNat 5 (b0.toNat % 32), b1, BitVec.ofNat 16 (b2.toNat * 256 + b3.toNat)⟩)
        (recordPort (decide (b0.toNat / 32 % 2 = 1)) (BitVec.ofNat 8 (b0.toNat % 32)) b1
          (BitVec.ofNat 16 (b2.toNat * 256 + b3.toNat))))

/-- 42_codec_decode.md R121: a buffer of 0 to 3 bytes, whatever they are, is `PacketTooShort`, and nothing else in
the block gives that error. -/
def Obligations.DecodeOfAShortBufferIsPacketTooShort : Prop :=
  (∀ (l : List Byte) (s : State), l.length < 4 →
    exec (.decode (bufOfBytes l)) s = .next (answered s (.error .packetTooShort) (errorPort 2))) ∧
  (∀ (i : Instr) (s t : State), exec i s = .next t → t.result = some (.error .packetTooShort) →
    ∃ buf, i = .decode buf ∧ bufLen buf < 4)

/-- 42_codec_decode.md R123: with four or more bytes, `buf[0]` in 0x00 to 0x7F or 0xC0 to 0xFF is `BadVersion` with no
record, `buf[0]` in 0x80 to 0xBF is not, and nothing else in the block gives that error. -/
def Obligations.DecodeOfAnotherVersionIsBadVersion : Prop :=
  (∀ (b0 b1 b2 b3 : Byte) (extra : Nat) (s : State), b0.toNat ≤ 0x7F ∨ 0xC0 ≤ b0.toNat →
    exec (.decode (.full b0 b1 b2 b3 extra)) s = .next (answered s (.error .badVersion) (errorPort 3))) ∧
  (∀ (b0 b1 b2 b3 : Byte) (extra : Nat) (s : State), 0x80 ≤ b0.toNat → b0.toNat ≤ 0xBF →
    ∃ res, responseOf (.decode (.full b0 b1 b2 b3 extra)) s = some (.record res)) ∧
  (∀ (i : Instr) (s t : State), exec i s = .next t → t.result = some (.error .badVersion) →
    ∃ b0 b1 b2 b3 extra, i = .decode (.full b0 b1 b2 b3 extra) ∧ b0.toNat / 64 ≠ 2)

/-- 30_encoding.md R66, R67, R74: a header word of each RTCP_HDR row, named or not, decodes to its own fields, the
payload type verbatim. -/
def Obligations.HeaderRowsReturnTheirFields : Prop :=
  ∀ (p : Bool) (rc : BitVec 5) (pt : Byte) (len : BitVec 16) (s : State),
    exec (.rtcpHdrSr p rc len) s = .next (recordAnswered s p rc 200 len) ∧
    exec (.rtcpHdrRr p rc len) s = .next (recordAnswered s p rc 201 len) ∧
    exec (.rtcpHdrSdes p rc len) s = .next (recordAnswered s p rc 202 len) ∧
    exec (.rtcpHdrBye p rc len) s = .next (recordAnswered s p rc 203 len) ∧
    exec (.rtcpHdrApp p rc len) s = .next (recordAnswered s p rc 204 len) ∧
    exec (.rtcpHdrRtpfb p rc len) s = .next (recordAnswered s p rc 205 len) ∧
    exec (.rtcpHdrPsfb p rc len) s = .next (recordAnswered s p rc 206 len) ∧
    exec (.rtcpHdrXr p rc len) s = .next (recordAnswered s p rc 207 len) ∧
    exec (.rtcpHdrAny p rc pt len) s = .next (recordAnswered s p rc pt len)

/-- 30_encoding.md R73 (a): for every header with a count up to 31, DECODE of the four bytes ENCODE returns (and of any
longer buffer that begins with them) gives the header back, the count zero-extended. -/
def Obligations.DecodeOfEncodeGivesTheHeader : Prop :=
  ∀ (h : Header) (tail : List Byte) (s s' : State), h.count.toNat ≤ 31 →
    ∃ out res, responseOf (.encode h) s = some (.bytes out) ∧
      responseOf (.decode (bufOfBytes (out.o0 :: out.o1 :: out.o2 :: out.o3 :: tail))) s' = some (.record res) ∧
      recordHeader res = h

/-- 30_encoding.md R73 (b) (the spec's inference): for every buffer that decodes, ENCODE of the record succeeds and
returns its first four bytes; and VALIDATE accepts the record's count (42_codec_decode.md R126). -/
def Obligations.EncodeOfDecodeGivesTheBytes : Prop :=
  ∀ (buf : Buf) (res : Record) (s s' : State), responseOf (.decode buf) s = some (.record res) →
    ∃ b0 b1 b2 b3 extra, buf = .full b0 b1 b2 b3 extra ∧
      responseOf (.encode (recordHeader res)) s' = some (.bytes ⟨b0, b1, b2, b3⟩) ∧
      responseOf (.validate (recordHeader res).count) s' = some (.flag true)

/-- 40_classifier.md R94 (the spec's inference): a buffer CLASSIFY accepts decodes; the converse is false. -/
def Obligations.ClassifiedBuffersDecode : Prop :=
  (∀ (buf : Buf) (s s' : State), responseOf (.classify buf) s = some (.flag true) →
    ∃ res, responseOf (.decode buf) s' = some (.record res)) ∧
  (∃ buf, ∀ s : State, responseOf (.classify buf) s = some (.flag false) ∧ ∃ res, responseOf (.decode buf) s = some (.record res))

/-! ### The response port -/

/-- 10_state.md R29: the response is a combinational function of the command port in the same transaction, signal by
signal, with every signal 0 when `req_valid` is 0. -/
def Obligations.ResponsePortIsCombinational : Prop :=
  ∀ (s : State) (c : CommandPort) (rest : List Line), s.script = .word (.port c) :: rest →
    ∃ t, step s = .next t ∧ t.cmd = c ∧ t.rsp = portEquations false c

/-- 60_exceptions.md R141, R142: the status of every operation. CLASSIFY and VALIDATE are always OK; ENCODE is OK or
`InvalidHeader` by the count; DECODE is `PacketTooShort`, `BadVersion` or OK by the length and the version; and the code
names the error of the result. -/
def Obligations.StatusOfEachOperation : Prop :=
  (∀ (buf : Buf) (s : State), ∃ t, exec (.classify buf) s = .next t ∧
    t.rsp.status = 0 ∧ errorIn t.result = errorOfStatus t.rsp.status) ∧
  (∀ (count : Byte) (s : State), ∃ t, exec (.validate count) s = .next t ∧
    t.rsp.status = 0 ∧ errorIn t.result = errorOfStatus t.rsp.status) ∧
  (∀ (h : Header) (s : State), ∃ t, exec (.encode h) s = .next t ∧
    t.rsp.status = (if h.count.toNat ≤ 31 then 0 else 1) ∧ errorIn t.result = errorOfStatus t.rsp.status) ∧
  (∀ (l : List Byte) (s : State), ∃ t, exec (.decode (bufOfBytes l)) s = .next t ∧
    t.rsp.status = (if l.length < 4 then 2 else if (l.headD 0).toNat / 64 = 2 then 0 else 3) ∧
    errorIn t.result = errorOfStatus t.rsp.status)

/-- 60_exceptions.md R145: on the response port an error is `rsp_valid` = 1, the code as status, and every data
output 0. -/
def Obligations.AnErrorCarriesNoData : Prop :=
  ∀ (i : Instr) (s t : State) (e : Error), exec i s = .next t → t.result = some (.error e) →
    ∃ code, errorOfStatus code = some e ∧ t.rsp = errorPort code

/-! ### Frames, purity, inputs without influence -/

/-- 10_state.md R31, R33: whatever the instruction, when it answers, the host's script, the reset input and the command
port are unchanged, and the host's record gains exactly the one response. There is no memory to change. -/
def Obligations.ExecChangesOnlyTheResponse : Prop :=
  ∀ (i : Instr) (s t : State), exec i s = .next t →
    t.script = s.script ∧ t.rst = s.rst ∧ t.cmd = s.cmd ∧
    ∃ r, t.result = some r ∧ t.trace = s.trace ++ [some r]

/-- 00_scope.md R14: the response depends on the request alone. In any two states the same instruction answers, with
the same result and the same response signals. -/
def Obligations.ResponseDependsOnTheRequestAlone : Prop :=
  ∀ (i : Instr) (s s' : State), ∃ t t', exec i s = .next t ∧ exec i s' = .next t' ∧
    t.result = t'.result ∧ t.rsp = t'.rsp ∧ t.result.isSome = true

/-- 10_state.md R28: an input the selected operation does not read, a lane at or above the length, the length beyond
whether it reaches 4, and with `req_valid` = 0 every input, have no influence on the response. -/
def Obligations.InputsNotReadHaveNoInfluence : Prop :=
  ∀ (s s' : State) (c d : CommandPort) (rest rest' : List Line), SameRequest c d →
    s.script = .word (.port c) :: rest → s'.script = .word (.port d) :: rest' →
    ∃ t t', step s = .next t ∧ step s' = .next t' ∧ t.rsp = t'.rsp ∧ t.result = t'.result

/-- 20_memory.md R49: two buffers that agree on indices 0 to 3 and both have length 4 or more get the same response,
from DECODE and from CLASSIFY, however long they are. -/
def Obligations.TrailingBytesAreIgnored : Prop :=
  ∀ (l m : List Byte) (s : State), 4 ≤ l.length → 4 ≤ m.length → l.take 4 = m.take 4 →
    exec (.decode (bufOfBytes l)) s = exec (.decode (bufOfBytes m)) s ∧
    exec (.classify (bufOfBytes l)) s = exec (.classify (bufOfBytes m)) s

/-- 10_state.md R28, 00_scope.md R7: presenting a longer buffer with the saturated length changes no response,
whatever LEN_W is, from 3 bits on (the model's default is 16, log 7). -/
def Obligations.SaturationChangesNoResponse : Prop :=
  ∀ (w : Nat) (b0 b1 b2 b3 : Byte) (extra presented : Nat) (s : State), 3 ≤ w →
    presented + 4 = min (extra + 4) (2 ^ w - 1) →
    exec (.decode (.full b0 b1 b2 b3 presented)) s = exec (.decode (.full b0 b1 b2 b3 extra)) s ∧
    exec (.classify (.full b0 b1 b2 b3 presented)) s = exec (.classify (.full b0 b1 b2 b3 extra)) s

/-! ### Encodings -/

/-- 30_encoding.md R68: with `req_valid` = 1 the two bits of `req_op` select the operation, all four codes used; the
operands are the inputs R28 names. -/
def Obligations.OperationCodesSelectTheOperation : Prop :=
  ∀ c : CommandPort, c.valid = true →
    (c.op.toNat = 0 → decode (.port c) = .instr (.classify (Buf.ofLanes c.len c.b0 c.b1 c.b2 c.b3))) ∧
    (c.op.toNat = 1 → decode (.port c) = .instr (.validate c.count)) ∧
    (c.op.toNat = 2 → decode (.port c) = .instr (.encode ⟨c.p, c.count, c.pt, c.length⟩)) ∧
    (c.op.toNat = 3 → decode (.port c) = .instr (.decode (Buf.ofLanes c.len c.b0 c.b1 c.b2 c.b3)))

/-- A few words written out from the spec's encodings (30_encoding.md R60, R66, R68, R69; 95_test_vectors.md S7, S8). -/
def Obligations.SampleWordsDecode : Prop :=
  decodeTableWord 8 0 = some (.classify .empty) ∧
  decodeTableWord 8 3 = some (.decode .empty) ∧
  decodeTableWord 32 0x80C80006 = some (.rtcpHdrSr false 0 6) ∧
  decodeTableWord 32 0xA1CB0001 = some (.rtcpHdrBye true 1 1) ∧
  decodeTableWord 32 0x80081234 = some (.rtcpHdrAny false 0 8 0x1234) ∧
  decodeTableWord 16 0x81C9 = some (.clsPt73 1 true 0) ∧
  decodeTableWord 32 0x40C80006 = some (.decode (.full 0x40 0xC8 0x00 0x06 0))

/-- Decode and encode agree: every well-formed instruction, with every operand at every value, is what its encoded
word decodes to, whatever the wires carry that its request does not drive. -/
def Obligations.DecodeOfEncodeIsTheInstruction : Prop :=
  ∀ (c : CommandPort) (i : Instr), i.wellFormed = true → decode (encode c i) = .instr i

/-- 30_encoding.md R71 (the spec's inference), the other direction: no bit of a valid header word, or of a prefix the
classifier's rows match, is lost in decoding; and the instruction is well formed. -/
def Obligations.EncodeOfDecodeIsTheWord : Prop :=
  (∀ (c : CommandPort) (w : HeaderWord), w.toNat / 2 ^ 30 = 2 →
    encode c (decodeHeaderWord w) = .header w ∧ (decodeHeaderWord w).wellFormed = true) ∧
  (∀ (c : CommandPort) (h : PrefixWord) (rest : BitVec 16), h.toNat / 2 ^ 14 = 2 → 72 ≤ h.toNat % 128 → h.toNat % 128 ≤ 76 →
    encode c (decodeClassifierWord h rest) = .classifierWord h rest)

/-- 30_encoding.md R74, R66: the header rows as masks and patterns. A word is an instruction of a named row exactly when
it shows the row's pattern under 0xC0FF0000, of the catch-all row when it shows 0x80000000 under 0xC0000000 and no
named row, and a plain DECODE of its bytes otherwise (the last is the model's reading, log 4). -/
def Obligations.HeaderRowsAreTheirMasks : Prop :=
  ∀ w : HeaderWord,
    (w &&& 0xC0FF0000 = 0x80C80000 ↔ ∃ p rc len, decodeHeaderWord w = .rtcpHdrSr p rc len) ∧
    (w &&& 0xC0FF0000 = 0x80C90000 ↔ ∃ p rc len, decodeHeaderWord w = .rtcpHdrRr p rc len) ∧
    (w &&& 0xC0FF0000 = 0x80CA0000 ↔ ∃ p rc len, decodeHeaderWord w = .rtcpHdrSdes p rc len) ∧
    (w &&& 0xC0FF0000 = 0x80CB0000 ↔ ∃ p rc len, decodeHeaderWord w = .rtcpHdrBye p rc len) ∧
    (w &&& 0xC0FF0000 = 0x80CC0000 ↔ ∃ p rc len, decodeHeaderWord w = .rtcpHdrApp p rc len) ∧
    (w &&& 0xC0FF0000 = 0x80CD0000 ↔ ∃ p rc len, decodeHeaderWord w = .rtcpHdrRtpfb p rc len) ∧
    (w &&& 0xC0FF0000 = 0x80CE0000 ↔ ∃ p rc len, decodeHeaderWord w = .rtcpHdrPsfb p rc len) ∧
    (w &&& 0xC0FF0000 = 0x80CF0000 ↔ ∃ p rc len, decodeHeaderWord w = .rtcpHdrXr p rc len) ∧
    ((w &&& 0xC0000000 = 0x80000000 ∧ namedPt (w.extractLsb' 16 8) = false) ↔
      ∃ p rc pt len, decodeHeaderWord w = .rtcpHdrAny p rc pt len) ∧
    (w &&& 0xC0000000 ≠ 0x80000000 ↔ decodeHeaderWord w = .decode (Buf.ofWord w))

/-- The header words and prefixes are no operations of their own (00_scope.md R2): the step on one is the step on the
DECODE, or CLASSIFY, request whose port carries its bytes, whatever the other inputs carry (log 3). -/
def Obligations.TableWordsRunAsPortRequests : Prop :=
  (∀ (s s' : State) (w : HeaderWord) (c : CommandPort) (rest : List Line),
    c.valid = true → c.op = 3 → 4 ≤ c.len → c.b0 ++ c.b1 ++ c.b2 ++ c.b3 = w →
    s.script = .word (.header w) :: rest → s'.script = .word (.port c) :: rest →
    ∃ t t', step s = .next t ∧ step s' = .next t' ∧ t.rsp = t'.rsp ∧ t.result = t'.result) ∧
  (∀ (s s' : State) (h : PrefixWord) (tail : BitVec 16) (c : CommandPort) (rest : List Line),
    c.valid = true → c.op = 0 → 4 ≤ c.len → c.b0 ++ c.b1 = h →
    s.script = .word (.classifierWord h tail) :: rest → s'.script = .word (.port c) :: rest →
    ∃ t t', step s = .next t ∧ step s' = .next t' ∧ t.rsp = t'.rsp ∧ t.result = t'.result)

/-! ### Scripts -/

/-- 30_encoding.md R77: a script of literal requests, run from any state, ends with the list of their responses, each
the function of its own request, in the order of the lines. -/
def Obligations.AScriptEndsInItsResponses : Prop :=
  ∀ (ws : List RequestWord) (rest : List Line) (s : State),
    s.script = ws.map Line.word ++ rest →
    ∃ t, Host.Core.run Sys2Proof.core ws.length s = .next t ∧
      t.script = rest ∧ t.trace = s.trace ++ ws.map wordResponse

/-- 30_encoding.md R78, 40_classifier.md R94 (the spec's inference): RECV of a byte list, whatever its length, presents
no second request where CLASSIFY of the list is false, and the DECODE of the same list where it is true; that DECODE
answers a record, never an error. -/
def Obligations.RecvNeverEndsInAnError : Prop :=
  ∀ (s : State) (l : List Byte) (rest : List Line), s.script = recvScript s.trace.length l ++ rest →
    ∃ t, Host.Core.run Sys2Proof.core 2 s = .next t ∧ t.script = rest ∧
      ((responseOf (.classify (bufOfBytes l)) s = some (.flag false) ∧
          t.trace = s.trace ++ [some (.flag false), none]) ∨
        (responseOf (.classify (bufOfBytes l)) s = some (.flag true) ∧
          ∃ res, responseOf (.decode (bufOfBytes l)) s = some (.record res) ∧
            t.trace = s.trace ++ [some (.flag true), some (.record res)]))

/-- 30_encoding.md R77, R78 (SEND, then the host's self-check of 95_test_vectors.md script 2): a later line that names
the bytes ENCODE returned decodes them to the header sent. -/
def Obligations.SendThenDecodeGivesTheHeader : Prop :=
  ∀ (s : State) (h : Header) (rest : List Line), h.count.toNat ≤ 31 →
    s.script = sendScript h ++ .decode (.outOf s.trace.length) :: rest →
    ∃ t out res, Host.Core.run Sys2Proof.core 2 s = .next t ∧ t.script = rest ∧
      responseOf (.encode h) s = some (.bytes out) ∧
      t.trace = s.trace ++ [some (.bytes out), some (.record res)] ∧ recordHeader res = h

end
end

