-- ==== Sys2Proof/Laws/State.lean ====
section
/-! SUPPORT. One lemma per field per update of State, so that no proof unfolds a record update. -/

namespace Sys2Proof.Machine

/-- The state a response leaves (the argument of `respond`'s next). -/
def responded (r : Response) (s : State) : State :=
  { s with rsp := driveResponse r, result := some r, trace := s.trace ++ [some r] }

theorem respond_eq_next (r : Response) (s : State) : respond r s = .next (responded r s) := rfl

theorem raise_eq_next (e : Error) (s : State) : raise e s = .next (responded (.error e) s) := rfl

@[simp] theorem responded_script (r : Response) (s : State) : (responded r s).script = s.script := rfl
@[simp] theorem responded_rst (r : Response) (s : State) : (responded r s).rst = s.rst := rfl
@[simp] theorem responded_cmd (r : Response) (s : State) : (responded r s).cmd = s.cmd := rfl
@[simp] theorem responded_rsp (r : Response) (s : State) : (responded r s).rsp = driveResponse r := rfl
@[simp] theorem responded_result (r : Response) (s : State) : (responded r s).result = some r := rfl
@[simp] theorem responded_trace (r : Response) (s : State) : (responded r s).trace = s.trace ++ [some r] := rfl

@[simp] theorem acceptRequest_script (w : RequestWord) (rest : List Line) (s : State) : (acceptRequest w rest s).script = rest := rfl
@[simp] theorem acceptRequest_rst (w : RequestWord) (rest : List Line) (s : State) : (acceptRequest w rest s).rst = false := rfl
@[simp] theorem acceptRequest_cmd (w : RequestWord) (rest : List Line) (s : State) : (acceptRequest w rest s).cmd = w.command (wires s) := rfl
@[simp] theorem acceptRequest_rsp (w : RequestWord) (rest : List Line) (s : State) : (acceptRequest w rest s).rsp = s.rsp := rfl
@[simp] theorem acceptRequest_result (w : RequestWord) (rest : List Line) (s : State) : (acceptRequest w rest s).result = s.result := rfl
@[simp] theorem acceptRequest_trace (w : RequestWord) (rest : List Line) (s : State) : (acceptRequest w rest s).trace = s.trace := rfl

@[simp] theorem noResponse_script (r : Bool) (c : CommandPort) (rest : List Line) (s : State) : (noResponse r c rest s).script = rest := rfl
@[simp] theorem noResponse_rst (r : Bool) (c : CommandPort) (rest : List Line) (s : State) : (noResponse r c rest s).rst = r := rfl
@[simp] theorem noResponse_cmd (r : Bool) (c : CommandPort) (rest : List Line) (s : State) : (noResponse r c rest s).cmd = c := rfl
@[simp] theorem noResponse_rsp (r : Bool) (c : CommandPort) (rest : List Line) (s : State) : (noResponse r c rest s).rsp = ResponsePort.quiet := rfl
@[simp] theorem noResponse_result (r : Bool) (c : CommandPort) (rest : List Line) (s : State) : (noResponse r c rest s).result = none := rfl
@[simp] theorem noResponse_trace (r : Bool) (c : CommandPort) (rest : List Line) (s : State) : (noResponse r c rest s).trace = s.trace ++ [none] := rfl

@[simp] theorem idle_script (s : State) : (idle s).script = s.script := rfl
@[simp] theorem idle_rst (s : State) : (idle s).rst = s.rst := rfl
@[simp] theorem idle_cmd (s : State) : (idle s).cmd = idleCommand s := rfl
@[simp] theorem idle_rsp (s : State) : (idle s).rsp = ResponsePort.quiet := rfl
@[simp] theorem idle_result (s : State) : (idle s).result = none := rfl
@[simp] theorem idle_trace (s : State) : (idle s).trace = s.trace := rfl

end Sys2Proof.Machine
end

