-- ==== Sys2Proof/Laws/Ops.lean ====
section
/-! SUPPORT. What each shared operation can do, said once: the buffer reads, the two buffer operations, the encoder
and one step. -/

namespace Sys2Proof.Machine

/-! ### Buffers -/

@[simp] theorem bufLen_empty : bufLen .empty = 0 := rfl
@[simp] theorem bufLen_one (b0 : Byte) : bufLen (.one b0) = 1 := rfl
@[simp] theorem bufLen_two (b0 b1 : Byte) : bufLen (.two b0 b1) = 2 := rfl
@[simp] theorem bufLen_three (b0 b1 b2 : Byte) : bufLen (.three b0 b1 b2) = 3 := rfl
@[simp] theorem bufLen_full (b0 b1 b2 b3 : Byte) (e : Nat) : bufLen (.full b0 b1 b2 b3 e) = e + 4 := rfl

theorem memRead8_full_zero (b0 b1 b2 b3 : Byte) (e : Nat) (h) : memRead8 (.full b0 b1 b2 b3 e) 0 h = b0 := rfl
theorem memRead8_full_one (b0 b1 b2 b3 : Byte) (e : Nat) (h) : memRead8 (.full b0 b1 b2 b3 e) 1 h = b1 := rfl
theorem memRead8_full_two (b0 b1 b2 b3 : Byte) (e : Nat) (h) : memRead8 (.full b0 b1 b2 b3 e) 2 h = b2 := rfl
theorem memRead8_full_three (b0 b1 b2 b3 : Byte) (e : Nat) (h) : memRead8 (.full b0 b1 b2 b3 e) 3 h = b3 := rfl
theorem memRead16_full_two (b0 b1 b2 b3 : Byte) (e : Nat) (h) : memRead16 (.full b0 b1 b2 b3 e) 2 h = b2 ++ b3 := rfl

/-- A byte list and its buffer have the same length. -/
theorem bufLen_bufOfBytes (l : List Byte) : bufLen (bufOfBytes l) = l.length := by
  rcases l with _ | ⟨b0, _ | ⟨b1, _ | ⟨b2, _ | ⟨b3, t⟩⟩⟩⟩ <;> simp [bufOfBytes]

/-! ### CLASSIFY -/

theorem classifyFlag_short {buf : Buf} (h : bufLen buf < 4) : classifyFlag buf = false := by
  simp [classifyFlag, h]

theorem classifyFlag_full (b0 b1 b2 b3 : Byte) (e : Nat) :
    classifyFlag (.full b0 b1 b2 b3 e) =
      (decide (versionField b0 = Config.version) &&
        (decide (Config.ptConflictLo ≤ b1 &&& Config.ptMask) && decide (b1 &&& Config.ptMask ≤ Config.ptConflictHi))) := by
  rw [classifyFlag, dif_neg (by simp)]
  simp only [memRead8_full_zero, memRead8_full_one]
  by_cases hv : versionField b0 = Config.version
  · by_cases hl : b1 &&& Config.ptMask < Config.ptConflictLo
    · simp only [hv, ne_eq, not_true_eq_false, if_false, hl, if_true, decide_true, Bool.true_and]
      rw [decide_eq_false (BitVec.not_le.mpr hl), Bool.false_and]
    · by_cases hh : Config.ptConflictHi < b1 &&& Config.ptMask
      · simp only [hv, ne_eq, not_true_eq_false, if_false, hl, hh, if_true, decide_true, Bool.true_and]
        rw [decide_eq_false (BitVec.not_le.mpr hh), Bool.and_false]
      · simp only [hv, ne_eq, not_true_eq_false, if_false, hl, hh, decide_true, Bool.true_and]
        rw [decide_eq_true (BitVec.not_lt.mp hl), decide_eq_true (BitVec.not_lt.mp hh), Bool.and_true]
  · simp [hv]

/-! ### DECODE -/

theorem decodeBuffer_short {buf : Buf} (h : bufLen buf < 4) (s : State) :
    decodeBuffer buf s = .next (responded (.error .packetTooShort) s) := by
  simp [decodeBuffer, h, raise_eq_next]

theorem decodeBuffer_badVersion (b0 b1 b2 b3 : Byte) (e : Nat) (s : State) (h : versionField b0 ≠ Config.version) :
    decodeBuffer (.full b0 b1 b2 b3 e) s = .next (responded (.error .badVersion) s) := by
  rw [decodeBuffer, dif_neg (by simp)]
  exact if_pos h

theorem decodeBuffer_ok (b0 b1 b2 b3 : Byte) (e : Nat) (s : State) (h : versionField b0 = Config.version) :
    decodeBuffer (.full b0 b1 b2 b3 e) s =
      .next (responded (.record ⟨paddingField b0, countField b0, b1, b2 ++ b3⟩) s) := by
  rw [decodeBuffer, dif_neg (by simp)]
  simp only [memRead8_full_zero, memRead8_full_one, memRead16_full_two, h, ne_eq, not_true_eq_false, if_false,
    respond_eq_next]

/-- DECODE answers in one of three ways. -/
theorem decodeBuffer_cases (buf : Buf) (s : State) :
    (bufLen buf < 4 ∧ decodeBuffer buf s = .next (responded (.error .packetTooShort) s)) ∨
    (∃ b0 b1 b2 b3 e, buf = .full b0 b1 b2 b3 e ∧ versionField b0 ≠ Config.version ∧
      decodeBuffer buf s = .next (responded (.error .badVersion) s)) ∨
    (∃ b0 b1 b2 b3 e, buf = .full b0 b1 b2 b3 e ∧ versionField b0 = Config.version ∧
      decodeBuffer buf s = .next (responded (.record ⟨paddingField b0, countField b0, b1, b2 ++ b3⟩) s)) := by
  by_cases hs : bufLen buf < 4
  · exact .inl ⟨hs, decodeBuffer_short hs s⟩
  · obtain ⟨b0, b1, b2, b3, e, rfl⟩ : ∃ b0 b1 b2 b3 e, buf = .full b0 b1 b2 b3 e := by
      cases buf with
      | full b0 b1 b2 b3 e => exact ⟨b0, b1, b2, b3, e, rfl⟩
      | _ => simp at hs
    by_cases hv : versionField b0 = Config.version
    · exact .inr (.inr ⟨b0, b1, b2, b3, e, rfl, hv, decodeBuffer_ok b0 b1 b2 b3 e s hv⟩)
    · exact .inr (.inl ⟨b0, b1, b2, b3, e, rfl, hv, decodeBuffer_badVersion b0 b1 b2 b3 e s hv⟩)

/-! ### ENCODE -/

/-- ENCODE answers in one of two ways, by the count alone. -/
theorem encodeHeader_cases (h : Header) (s : State) :
    (Config.countMax < h.count ∧ encodeHeader h s = .next (responded (.error .invalidHeader) s)) ∨
    (¬ Config.countMax < h.count ∧ encodeHeader h s = .next (responded (.bytes (assemble h)) s)) := by
  by_cases hc : Config.countMax < h.count
  · exact .inl ⟨hc, by simp only [encodeHeader, if_pos hc, raise_eq_next]⟩
  · exact .inr ⟨hc, by simp only [encodeHeader, if_neg hc, respond_eq_next]⟩

/-! ### One step -/

/-- A step does one of four things: nothing is left, the line gets no response (nothing presented, or a sample that
is no request), the sample stands under reset, or the decoded instruction runs. -/
theorem step_cases (s : State) :
    (s.script = [] ∧ step s = .next (idle s)) ∨
    (∃ line rest c, s.script = line :: rest ∧ c.valid = false ∧ step s = .next (noResponse false c rest s)) ∨
    (∃ line rest c, s.script = line :: rest ∧ present s.trace line = .underReset c ∧
      step s = .next (noResponse true c rest s)) ∨
    (∃ line rest w i, s.script = line :: rest ∧ present s.trace line = .request w ∧ decode w = .instr i ∧
      step s = exec i (acceptRequest w rest s)) := by
  cases hs : s.script with
  | nil => exact .inl ⟨rfl, by simp [step, hs]⟩
  | cons line rest =>
    cases hp : present s.trace line with
    | nothing => exact .inr (.inl ⟨line, rest, idleCommand s, rfl, rfl, by simp [step, hs, hp]⟩)
    | underReset c => exact .inr (.inr (.inl ⟨line, rest, c, rfl, hp, by simp [step, hs, hp]⟩))
    | request w =>
      cases hd : decode w with
      | instr i => exact .inr (.inr (.inr ⟨line, rest, w, i, rfl, hp, hd, by simp [step, hs, hp, hd]⟩))
      | rejected r =>
        refine .inr (.inl ⟨line, rest, w.command (wires s), rfl, ?_, by simp [step, hs, hp, hd]⟩)
        cases w with
        | port c =>
          by_cases hv : c.valid
          · simp only [decode, decodePort, hv, if_true] at hd
            split at hd <;> first | cases hd | skip
            split at hd <;> first | cases hd | skip
            split at hd <;> cases hd
          · simpa [RequestWord.command] using hv
        | header w => cases hd
        | classifierWord h rest => cases hd

/-! ### Runs -/

/-- A run of one more step, after a step that answers. -/
theorem run_next (M : Host.Core) (k : Nat) (s t : M.State) (h : M.step s = .next t) : M.run (k + 1) s = M.run k t := by
  have unfolded : M.run (k + 1) s =
      (match M.step s with
        | .next u => M.run k u
        | .fault r => .fault r
        | .refused r => .refused r) := by rfl
  rw [unfolded, h]

end Sys2Proof.Machine
end

