-- ==== Sys2Proof/Laws/Bits.lean ====
section
/-! SUPPORT. The bit fields as arithmetic on numbers, and the fields of an assembled word. -/

namespace Sys2Proof.Machine

theorem versionField_iff_div (b : Byte) : versionField b = Config.version ↔ b.toNat / 64 = 2 := by
  have hb := b.isLt
  rw [versionField, ← BitVec.toNat_inj, BitVec.extractLsb'_toNat, Nat.shiftRight_eq_div_pow]
  show b.toNat / 2 ^ 6 % 2 ^ 2 = 2 ↔ _
  omega

theorem paddingField_eq_div (b : Byte) : paddingField b = decide (b.toNat / 32 % 2 = 1) := by
  rw [paddingField, BitVec.getLsbD, Nat.testBit_eq_decide_div_mod_eq]

theorem countField_eq_mod (b : Byte) : countField b = BitVec.ofNat 5 (b.toNat % 32) := by
  apply BitVec.eq_of_toNat_eq
  rw [countField, BitVec.extractLsb'_toNat, BitVec.toNat_ofNat, Nat.shiftRight_zero]
  show b.toNat % 32 = b.toNat % 32 % 32
  omega

theorem ptMask_toNat (b : Byte) : (b &&& Config.ptMask).toNat = b.toNat % 128 := by
  rw [BitVec.toNat_and]
  show b.toNat &&& (2 ^ 7 - 1) = _
  rw [Nat.and_two_pow_sub_one_eq_mod]

theorem countMax_lt_iff (c : Byte) : Config.countMax < c ↔ 31 < c.toNat := by
  rw [BitVec.lt_def]; rfl

theorem append_eq_mul_add (a b : Byte) : a ++ b = BitVec.ofNat 16 (a.toNat * 256 + b.toNat) := by
  have ha := a.isLt
  have hb := b.isLt
  apply BitVec.eq_of_toNat_eq
  rw [BitVec.toNat_append, BitVec.toNat_ofNat, ← Nat.shiftLeft_add_eq_or_of_lt hb, Nat.shiftLeft_eq]
  omega

/-- The fields of an assembled header word are the fields it was made of. -/
theorem headerWord_fields (p : Bool) (rc : BitVec 5) (pt : Byte) (len : BitVec 16) :
    (headerWord p rc pt len).getLsbD 29 = p ∧ (headerWord p rc pt len).extractLsb' 24 5 = rc ∧
    (headerWord p rc pt len).extractLsb' 16 8 = pt ∧ (headerWord p rc pt len).extractLsb' 0 16 = len ∧
    (headerWord p rc pt len).extractLsb' 30 2 = Config.version := by
  refine ⟨?_, ?_, ?_, ?_, ?_⟩
  · simp only [headerWord, BitVec.getLsbD_append, BitVec.getLsbD_ofBool]; simp
  all_goals
    apply BitVec.eq_of_getLsbD_eq
    intro i hi
    simp only [headerWord, BitVec.getLsbD_append, BitVec.getLsbD_ofBool, BitVec.getLsbD_extractLsb']
    interval_cases i <;> simp [Config.version]

/-- The fields of an assembled classifier prefix are the fields it was made of. -/
theorem classifierPrefix_fields (x : BitVec 6) (m : Bool) (pt7 : BitVec 7) :
    (classifierPrefix x m pt7).getLsbD 7 = m ∧ (classifierPrefix x m pt7).extractLsb' 8 6 = x ∧
    (classifierPrefix x m pt7).extractLsb' 0 7 = pt7 ∧ (classifierPrefix x m pt7).extractLsb' 14 2 = Config.version := by
  refine ⟨?_, ?_, ?_, ?_⟩
  · simp only [classifierPrefix, BitVec.getLsbD_append, BitVec.getLsbD_ofBool]; simp
  all_goals
    apply BitVec.eq_of_getLsbD_eq
    intro i hi
    simp only [classifierPrefix, BitVec.getLsbD_append, BitVec.getLsbD_ofBool, BitVec.getLsbD_extractLsb']
    interval_cases i <;> simp [Config.version]

/-- A word of version 2 is made of its own fields. -/
theorem headerWord_of_fields (w : HeaderWord) (h : w.extractLsb' 30 2 = Config.version) :
    headerWord (w.getLsbD 29) (w.extractLsb' 24 5) (w.extractLsb' 16 8) (w.extractLsb' 0 16) = w := by
  have split : w = w.extractLsb' 30 2 ++ BitVec.ofBool (w.getLsbD 29) ++ w.extractLsb' 24 5 ++ w.extractLsb' 16 8 ++
      w.extractLsb' 0 16 := by
    apply BitVec.eq_of_getLsbD_eq
    intro i hi
    simp only [BitVec.getLsbD_append, BitVec.getLsbD_ofBool, BitVec.getLsbD_extractLsb']
    interval_cases i <;> simp
  conv_rhs => rw [split, h]
  rfl

/-- A prefix of version 2 is made of its own fields. -/
theorem classifierPrefix_of_fields (h : PrefixWord) (hv : h.extractLsb' 14 2 = Config.version) :
    classifierPrefix (h.extractLsb' 8 6) (h.getLsbD 7) (h.extractLsb' 0 7) = h := by
  have split : h = h.extractLsb' 14 2 ++ h.extractLsb' 8 6 ++ BitVec.ofBool (h.getLsbD 7) ++ h.extractLsb' 0 7 := by
    apply BitVec.eq_of_getLsbD_eq
    intro i hi
    simp only [BitVec.getLsbD_append, BitVec.getLsbD_ofBool, BitVec.getLsbD_extractLsb']
    interval_cases i <;> simp
  conv_rhs => rw [split, hv]
  rfl

end Sys2Proof.Machine
end

