-- ==== Sys2Proof/Laws/PerInstr.lean ====
section
/-! SUPPORT. The per-instruction family RowBits: the encoded word of an instruction shows the fixed bits of the
instruction's row in spec/opcode_table.json (spec/30_encoding.md R68, R69, R74). -/

namespace Sys2Proof.Laws

/-- Under the mask of the named header rows only V and PT remain. -/
theorem headerWord_named_mask (p : Bool) (rc : BitVec 5) (pt : Byte) (len : BitVec 16) :
    headerWord p rc pt len &&& 0xC0FF0000 = headerWord false 0 pt 0 := by
  apply BitVec.eq_of_getLsbD_eq
  intro i hi
  simp only [headerWord, BitVec.getLsbD_and, BitVec.getLsbD_append, BitVec.getLsbD_ofBool]
  interval_cases i <;> simp [Config.version]

/-- Under the mask of the catch-all row only V remains. -/
theorem headerWord_any_mask (p : Bool) (rc : BitVec 5) (pt : Byte) (len : BitVec 16) :
    headerWord p rc pt len &&& 0xC0000000 = 0x80000000 := by
  apply BitVec.eq_of_getLsbD_eq
  intro i hi
  simp only [headerWord, BitVec.getLsbD_and, BitVec.getLsbD_append, BitVec.getLsbD_ofBool]
  interval_cases i <;> simp [Config.version]

/-- Under the mask of the prefix rows V and the 7-bit payload type remain. -/
theorem classifierPrefix_mask (x : BitVec 6) (m : Bool) (pt7 : BitVec 7) :
    classifierPrefix x m pt7 &&& 0xC07F = classifierPrefix 0 false pt7 := by
  apply BitVec.eq_of_getLsbD_eq
  intro i hi
  simp only [classifierPrefix, BitVec.getLsbD_and, BitVec.getLsbD_append, BitVec.getLsbD_ofBool]
  interval_cases i <;> simp [Config.version]

end Sys2Proof.Laws

namespace Sys2Proof.Laws.RowBits

/-- Whatever the wires carry that the request does not drive. -/
def Statement (i : Instr) : Prop := ∀ wires : CommandPort, i.row.matches (Sys2Proof.encode wires i) = true

theorem classify (buf : Buf) : Statement (.classify buf) := by
  intro wires
  cases buf <;> simp [Instr.row, Sys2Proof.encode, classifyCommand, requestFor, CommandPort.withBuf, TableRow.matches]

theorem validate (count : Byte) : Statement (.validate count) := by
  intro wires
  simp [Instr.row, Sys2Proof.encode, validateCommand, Config.opValidate, requestFor, TableRow.matches]

theorem encode (hdr : Header) : Statement (.encode hdr) := by
  intro wires
  simp [Instr.row, Sys2Proof.encode, encodeCommand, Config.opEncode, requestFor, TableRow.matches]

theorem decode (buf : Buf) : Statement (.decode buf) := by
  intro wires
  cases buf <;>
    simp [Instr.row, Sys2Proof.encode, decodeCommand, requestFor, CommandPort.withBuf, TableRow.matches]

theorem rtcpHdrSr (p : Bool) (rc : BitVec 5) (len : BitVec 16) : Statement (.rtcpHdrSr p rc len) := by
  intro wires
  simp only [Instr.row, Sys2Proof.encode, TableRow.matches, headerWord_named_mask]
  decide

theorem rtcpHdrRr (p : Bool) (rc : BitVec 5) (len : BitVec 16) : Statement (.rtcpHdrRr p rc len) := by
  intro wires
  simp only [Instr.row, Sys2Proof.encode, TableRow.matches, headerWord_named_mask]
  decide

theorem rtcpHdrSdes (p : Bool) (rc : BitVec 5) (len : BitVec 16) : Statement (.rtcpHdrSdes p rc len) := by
  intro wires
  simp only [Instr.row, Sys2Proof.encode, TableRow.matches, headerWord_named_mask]
  decide

theorem rtcpHdrBye (p : Bool) (rc : BitVec 5) (len : BitVec 16) : Statement (.rtcpHdrBye p rc len) := by
  intro wires
  simp only [Instr.row, Sys2Proof.encode, TableRow.matches, headerWord_named_mask]
  decide

theorem rtcpHdrApp (p : Bool) (rc : BitVec 5) (len : BitVec 16) : Statement (.rtcpHdrApp p rc len) := by
  intro wires
  simp only [Instr.row, Sys2Proof.encode, TableRow.matches, headerWord_named_mask]
  decide

theorem rtcpHdrRtpfb (p : Bool) (rc : BitVec 5) (len : BitVec 16) : Statement (.rtcpHdrRtpfb p rc len) := by
  intro wires
  simp only [Instr.row, Sys2Proof.encode, TableRow.matches, headerWord_named_mask]
  decide

theorem rtcpHdrPsfb (p : Bool) (rc : BitVec 5) (len : BitVec 16) : Statement (.rtcpHdrPsfb p rc len) := by
  intro wires
  simp only [Instr.row, Sys2Proof.encode, TableRow.matches, headerWord_named_mask]
  decide

theorem rtcpHdrXr (p : Bool) (rc : BitVec 5) (len : BitVec 16) : Statement (.rtcpHdrXr p rc len) := by
  intro wires
  simp only [Instr.row, Sys2Proof.encode, TableRow.matches, headerWord_named_mask]
  decide

theorem rtcpHdrAny (p : Bool) (rc : BitVec 5) (pt : Byte) (len : BitVec 16) : Statement (.rtcpHdrAny p rc pt len) := by
  intro wires
  simp only [Instr.row, Sys2Proof.encode, TableRow.matches, headerWord_any_mask]
  decide

theorem clsPt72 (x : BitVec 6) (m : Bool) (rest : BitVec 16) : Statement (.clsPt72 x m rest) := by
  intro wires
  simp only [Instr.row, Sys2Proof.encode, TableRow.matches, classifierPrefix_mask]
  decide

theorem clsPt73 (x : BitVec 6) (m : Bool) (rest : BitVec 16) : Statement (.clsPt73 x m rest) := by
  intro wires
  simp only [Instr.row, Sys2Proof.encode, TableRow.matches, classifierPrefix_mask]
  decide

theorem clsPt74 (x : BitVec 6) (m : Bool) (rest : BitVec 16) : Statement (.clsPt74 x m rest) := by
  intro wires
  simp only [Instr.row, Sys2Proof.encode, TableRow.matches, classifierPrefix_mask]
  decide

theorem clsPt75 (x : BitVec 6) (m : Bool) (rest : BitVec 16) : Statement (.clsPt75 x m rest) := by
  intro wires
  simp only [Instr.row, Sys2Proof.encode, TableRow.matches, classifierPrefix_mask]
  decide

theorem clsPt76 (x : BitVec 6) (m : Bool) (rest : BitVec 16) : Statement (.clsPt76 x m rest) := by
  intro wires
  simp only [Instr.row, Sys2Proof.encode, TableRow.matches, classifierPrefix_mask]
  decide

end Sys2Proof.Laws.RowBits
end

