-- ==== Sys2Proof/Tests/Slice0.lean ====
section
/-! SUPPORT. Tests of single decodings and single steps, each expected value taken from spec/95_test_vectors.md or
worked out by hand from the rule named beside it; and for every statement with hypotheses a witness that meets them. -/

namespace Sys2Proof.Tests

open Sys2Proof Sys2Proof.Machine Sys2Proof.Claims

/-- The state after reset with one line to run. -/
def withLine (line : Line) : State := { State.reset with script := [line] }

/-- A port sample that carries an operation, a length, four lanes and a header. -/
def sample (op : BitVec 2) (len : Nat) (b0 b1 b2 b3 : Byte) (p : Bool) (count pt : Byte) (length : BitVec 16) : CommandPort :=
  ⟨true, op, len, b0, b1, b2, b3, p, count, pt, length⟩

/-- The response port after a step. -/
def portAfter (s : State) : Option ResponsePort :=
  match step s with
  | .next t => some t.rsp
  | .fault _ => none
  | .refused _ => none

/-- The host's record after a few lines. -/
def recordAfter (lines : Nat) (s : State) : Option (List (Option Response)) :=
  match Host.Core.run Sys2Proof.core lines s with
  | .next t => some t.trace
  | .fault _ => none
  | .refused _ => none

/-! ### Well-formedness refuses -/

/-- A buffer of 65536 bytes does not fit on a 16-bit `req_len` (10_state.md R28). -/
theorem smoke_length_above_the_port : (Instr.classify (.full 0x80 0xC8 0 0 65532)).wellFormed = false := by decide
theorem smoke_decode_length_above_the_port : (Instr.decode (.full 0x80 0xC8 0 0 65532)).wellFormed = false := by decide
theorem smoke_longest_length_is_well_formed : (Instr.decode (.full 0x80 0xC8 0 0 65531)).wellFormed = true := by decide

/-- The catch-all row holds no payload type that has a named row (30_encoding.md R74). -/
theorem smoke_any_row_with_a_named_type : (Instr.rtcpHdrAny false 0 200 0).wellFormed = false := by decide
theorem smoke_any_row_with_the_last_named_type : (Instr.rtcpHdrAny false 0 207 0).wellFormed = false := by decide

/-! ### Every constructor's word, written out from 30_encoding.md R60, R66, R68, R69 -/

theorem test_decode_classify : decodeTableWord 8 0b00 = some (.classify .empty) := by decide
theorem test_decode_validate : decodeTableWord 8 0b01 = some (.validate 0) := by decide
theorem test_decode_encode : decodeTableWord 8 0b10 = some (.encode ⟨false, 0, 0, 0⟩) := by decide
theorem test_decode_decode : decodeTableWord 8 0b11 = some (.decode .empty) := by decide
theorem test_decode_rtcpHdrSr : decodeTableWord 32 0b10000000110010000000000000000110 = some (.rtcpHdrSr false 0 6) := by decide
theorem test_decode_rtcpHdrRr : decodeTableWord 32 0b10000001110010010000000000000111 = some (.rtcpHdrRr false 1 7) := by decide
theorem test_decode_rtcpHdrSdes : decodeTableWord 32 0b10000010110010100000000000000110 = some (.rtcpHdrSdes false 2 6) := by decide
theorem test_decode_rtcpHdrBye : decodeTableWord 32 0b10100001110010110000000000000001 = some (.rtcpHdrBye true 1 1) := by decide
theorem test_decode_rtcpHdrApp : decodeTableWord 32 0b10000101110011000001001000110100 = some (.rtcpHdrApp false 5 0x1234) := by decide
theorem test_decode_rtcpHdrRtpfb : decodeTableWord 32 0b10100000110011010000000100000010 = some (.rtcpHdrRtpfb true 0 258) := by decide
theorem test_decode_rtcpHdrPsfb : decodeTableWord 32 0b10101111110011100000000000000010 = some (.rtcpHdrPsfb true 15 2) := by decide
theorem test_decode_rtcpHdrXr : decodeTableWord 32 0b10000001110011110000000000000100 = some (.rtcpHdrXr false 1 4) := by decide
theorem test_decode_rtcpHdrAny : decodeTableWord 32 0b10111111111111111111111111111111 = some (.rtcpHdrAny true 31 255 0xFFFF) := by decide
theorem test_decode_clsPt72 : decodeTableWord 16 0b1000000001001000 = some (.clsPt72 0 false 0) := by decide
theorem test_decode_clsPt73 : decodeTableWord 16 0b1000000111001001 = some (.clsPt73 1 true 0) := by decide
theorem test_decode_clsPt74 : decodeTableWord 16 0b1011111101001010 = some (.clsPt74 63 false 0) := by decide
theorem test_decode_clsPt75 : decodeTableWord 16 0b1010000111001011 = some (.clsPt75 33 true 0) := by decide
theorem test_decode_clsPt76 : decodeTableWord 16 0b1000000001001100 = some (.clsPt76 0 false 0) := by decide

/-- Version 1 matches no header row and is DECODE's to refuse (30_encoding.md R70); 77 matches no prefix row. -/
theorem test_decode_header_of_version_1 : decodeTableWord 32 0x7FC80006 = some (.decode (.full 0x7F 0xC8 0x00 0x06 0)) := by decide
theorem test_decode_prefix_of_77 : decodeTableWord 16 0x804D = some (.classify (.full 0x80 0x4D 0x00 0x00 0)) := by decide
theorem test_decode_rejects_a_width_outside_the_table : decodeTable 40 0 = .rejected .notATableWidth := by decide
theorem test_decode_rejects_no_request : decode (.port ⟨false, 3, 4, 0x80, 0xC8, 0, 6, false, 0, 0, 0⟩) = .rejected .noRequest := by decide

/-! ### One instruction (95_test_vectors.md sections 1 to 4, 7 and 8) -/

theorem test_classify_source_example_true : responseOf (.classify (bufOfBytes [0x81, 0xC9, 0x00, 0x07])) State.reset = some (.flag true) := by decide
theorem test_classify_three_bytes_false : responseOf (.classify (bufOfBytes [0x80, 0xC8, 0x00])) State.reset = some (.flag false) := by decide
theorem test_validate_31 : responseOf (.validate 31) State.reset = some (.flag true) := by decide
theorem test_validate_32 : responseOf (.validate 32) State.reset = some (.flag false) := by decide
theorem test_encode_goodbye : responseOf (.encode ⟨true, 1, 203, 1⟩) State.reset = some (.bytes ⟨0xA1, 0xCB, 0x00, 0x01⟩) := by decide
theorem test_encode_count_32 : responseOf (.encode ⟨false, 32, 200, 6⟩) State.reset = some (.error .invalidHeader) := by decide
theorem test_decode_sender_report : responseOf (.decode (bufOfBytes [0x80, 0xC8, 0x00, 0x06, 0xDE, 0xAD])) State.reset = some (.record ⟨false, 0, 200, 6⟩) := by decide
theorem test_decode_length_before_version : responseOf (.decode (bufOfBytes [0x40])) State.reset = some (.error .packetTooShort) := by decide
theorem test_rtcpHdrSr : responseOf (.rtcpHdrSr false 0 6) State.reset = some (.record ⟨false, 0, 200, 6⟩) := by decide
theorem test_rtcpHdrRr : responseOf (.rtcpHdrRr false 1 7) State.reset = some (.record ⟨false, 1, 201, 7⟩) := by decide
theorem test_rtcpHdrSdes : responseOf (.rtcpHdrSdes false 1 2) State.reset = some (.record ⟨false, 1, 202, 2⟩) := by decide
theorem test_rtcpHdrBye : responseOf (.rtcpHdrBye true 1 1) State.reset = some (.record ⟨true, 1, 203, 1⟩) := by decide
theorem test_rtcpHdrApp : responseOf (.rtcpHdrApp false 0 0) State.reset = some (.record ⟨false, 0, 204, 0⟩) := by decide
theorem test_rtcpHdrRtpfb : responseOf (.rtcpHdrRtpfb true 0 258) State.reset = some (.record ⟨true, 0, 205, 258⟩) := by decide
theorem test_rtcpHdrPsfb : responseOf (.rtcpHdrPsfb true 15 2) State.reset = some (.record ⟨true, 15, 206, 2⟩) := by decide
theorem test_rtcpHdrXr : responseOf (.rtcpHdrXr false 0 0) State.reset = some (.record ⟨false, 0, 207, 0⟩) := by decide
theorem test_rtcpHdrAny : responseOf (.rtcpHdrAny false 0 8 4660) State.reset = some (.record ⟨false, 0, 8, 4660⟩) := by decide
theorem test_clsPt72 : responseOf (.clsPt72 0 false 0) State.reset = some (.flag true) := by decide
theorem test_clsPt73 : responseOf (.clsPt73 1 true 7) State.reset = some (.flag true) := by decide
theorem test_clsPt74 : responseOf (.clsPt74 63 false 0x1234) State.reset = some (.flag true) := by decide
theorem test_clsPt75 : responseOf (.clsPt75 33 true 1) State.reset = some (.flag true) := by decide
theorem test_clsPt76 : responseOf (.clsPt76 0 true 0) State.reset = some (.flag true) := by decide

/-- Port vectors of section 7: the DECODE of a full port, and a bad version with every data output 0. -/
theorem test_port_decode : portAfter (withLine (.word (.port (sample 3 0xFFFF 0xBF 0xFF 0xFF 0xFF false 7 7 7)))) =
    some (recordPort true 0x1F 0xFF 0xFFFF) := by decide
theorem test_port_bad_version : portAfter (withLine (.word (.port (sample 3 4 0x21 0xCB 0x00 0x01 true 1 1 1)))) =
    some (errorPort 3) := by decide
theorem test_port_encode : portAfter (withLine (.word (.port (sample 2 0 9 9 9 9 true 0x01 0xCB 0x0001)))) =
    some (bytesPort 0xA1 0xCB 0x00 0x01) := by decide
theorem test_port_classify_three_bytes : portAfter (withLine (.word (.port (sample 0 3 0x81 0xC9 0x00 0xEE true 1 1 1)))) =
    some (flagPort false) := by decide

/-- A header word and a prefix, placed as the host places a table word, run as the next step. -/
theorem test_fetch_header_word : portAfter (State.reset.withFetchWord 32 0xA1CB0001) = some (recordPort true 1 203 1) := by decide
theorem test_fetch_prefix : portAfter (State.reset.withFetchWord 16 0x8048) = some (flagPort true) := by decide
theorem test_fetch_operation : portAfter (State.reset.withFetchWord 8 3) = some (errorPort 2) := by decide

/-! ### Witnesses: the hypotheses of each statement can be met together -/

/-- A request line, run from a state that meets the invariant, that answers a record. -/
theorem witness_StepKeepsTheInvariant :
    ∃ s t : State, s.Inv ∧ step s = .next t ∧ t.result = some (.record ⟨true, 1, 203, 1⟩) :=
  ⟨withLine (.word (.port (sample 3 4 0xA1 0xCB 0x00 0x01 false 0 0 0))), _,
    ⟨by decide, rfl, fun r h => by simp [withLine, State.reset] at h, fun r h => by simp [withLine, State.reset] at h⟩, rfl, by decide⟩

theorem witness_StepAlwaysAnswersNext :
    State.reset.script = [] ∧ (withLine (.encode (.fields ⟨true, 1, 203, 1⟩))).script ≠ [] := by decide

theorem witness_StepRunsTheDecodedInstruction :
    present [] (.word (.header 0xA1CB0001)) = .request (.header 0xA1CB0001) ∧
    decode (.header 0xA1CB0001) = .instr (.rtcpHdrBye true 1 1) ∧
    (withLine (.word (.header 0xA1CB0001))).script = .word (.header 0xA1CB0001) :: [] := by decide

theorem witness_StepRunsAnEncodedInstruction :
    (Instr.rtcpHdrAny true 31 255 0xFFFF).wellFormed = true ∧ (Instr.decode (.full 0x80 0xC8 0 6 65531)).wellFormed = true ∧
    (withLine (.word (encode State.reset.cmd (.validate 31)))).script = [.word (encode State.reset.cmd (.validate 31))] := by decide

theorem witness_WithoutARequestTheResponseIsZero :
    (withLine (.word (.port State.reset.cmd))).script = .word (.port State.reset.cmd) :: [] ∧ State.reset.cmd.valid = false ∧
    State.reset.script = [] := by decide

theorem witness_UnderResetNoRequestIsAnswered :
    (withLine (.underReset (sample 1 0 0 0 0 0 false 1 0 0))).script = .underReset (sample 1 0 0 0 0 0 false 1 0 0) :: [] := by decide

theorem witness_ClassifyAnswersTheFlag : ([0x80, 0xC8, 0x00] : List Byte).length < 4 ∧ ([] : List Byte).length < 4 := by decide

theorem witness_ClassifyIgnoresEverythingElse :
    (0x80 : Byte).toNat / 64 = (0xBF : Byte).toNat / 64 ∧ (0x4C : Byte).toNat % 128 = (0xCC : Byte).toNat % 128 := by decide

theorem witness_FeedbackAndReportTypesAreNotClassified :
    namedPt 200 = true ∧ namedPt 204 = true ∧ namedPt 205 = true ∧ namedPt 207 = true := by decide

theorem witness_ValidateAnswersTheCountBound :
    (withLine (.word (.port (sample 1 0 0 0 0 0 false 32 0 0)))).script = .word (.port (sample 1 0 0 0 0 0 false 32 0 0)) :: [] ∧
    (sample 1 0 0 0 0 0 false 32 0 0).valid = true ∧ (sample 1 0 0 0 0 0 false 32 0 0).op = 1 := by decide

theorem witness_EncodeWritesTheFourBytes : (⟨true, 31, 255, 0xFFFF⟩ : Header).count.toNat ≤ 31 := by decide

theorem witness_EncodeRefusesACountAbove31 : 31 < (⟨false, 32, 200, 6⟩ : Header).count.toNat ∧
    ∃ t, exec (.encode ⟨false, 32, 200, 6⟩) State.reset = .next t ∧ t.result = some (.error .invalidHeader) :=
  ⟨by decide, _, rfl, by decide⟩

theorem witness_EncodeOrTermsAreDisjoint : (31 : Byte).toNat ≤ 31 ∧ (0 : Byte).toNat ≤ 31 := by decide

theorem witness_EncodeIsInjective :
    responseOf (.encode ⟨true, 31, 255, 1⟩) State.reset = some (.bytes ⟨0xBF, 0xFF, 0x00, 0x01⟩) := by decide

theorem witness_ClassifyOfAnEncodedHeader :
    responseOf (.encode ⟨false, 1, 205, 3⟩) State.reset = some (.bytes ⟨0x81, 0xCD, 0x00, 0x03⟩) := by decide

theorem witness_DecodeReturnsTheFields : (0x80 : Byte).toNat / 64 = 2 ∧ (0xBF : Byte).toNat / 64 = 2 := by decide

theorem witness_DecodeOfAShortBufferIsPacketTooShort : ([0x40, 0xC8, 0x00] : List Byte).length < 4 ∧
    ∃ t, exec (.decode (.three 0x40 0xC8 0x00)) State.reset = .next t ∧ t.result = some (.error .packetTooShort) :=
  ⟨by decide, _, rfl, by decide⟩

theorem witness_DecodeOfAnotherVersionIsBadVersion :
    (0x7F : Byte).toNat ≤ 0x7F ∧ 0xC0 ≤ (0xC0 : Byte).toNat ∧ (0x80 ≤ (0x80 : Byte).toNat ∧ (0x80 : Byte).toNat ≤ 0xBF) ∧
    (0x80 ≤ (0xBF : Byte).toNat ∧ (0xBF : Byte).toNat ≤ 0xBF) ∧
    ∃ t, exec (.decode (.full 0x7F 0xC8 0x00 0x06 0)) State.reset = .next t ∧ t.result = some (.error .badVersion) :=
  ⟨by decide, by decide, by decide, by decide, _, rfl, by decide⟩

theorem witness_DecodeOfEncodeGivesTheHeader : (⟨true, 31, 206, 2⟩ : Header).count.toNat ≤ 31 := by decide

theorem witness_EncodeOfDecodeGivesTheBytes :
    responseOf (.decode (.full 0xBF 0x4A 0x12 0x34 0)) State.reset = some (.record ⟨true, 31, 74, 4660⟩) := by decide

theorem witness_ClassifiedBuffersDecode :
    responseOf (.classify (.full 0xBF 0x4A 0x12 0x34 0)) State.reset = some (.flag true) := by decide

theorem witness_ResponsePortIsCombinational :
    (withLine (.word (.port (sample 2 0 0 0 0 0 true 31 1 2)))).script = .word (.port (sample 2 0 0 0 0 0 true 31 1 2)) :: [] := by decide

theorem witness_AnErrorCarriesNoData :
    ∃ t, exec (.decode .empty) State.reset = .next t ∧ t.result = some (.error .packetTooShort) := ⟨_, rfl, by decide⟩

theorem witness_ExecChangesOnlyTheResponse : ∃ t, exec (.clsPt72 5 true 9) State.reset = .next t := ⟨_, rfl⟩

/-- A 3-byte DECODE whose fourth lane, and header inputs, differ. -/
theorem witness_InputsNotReadHaveNoInfluence :
    SameRequest (sample 3 3 0x80 0xC8 0x00 0x11 false 0 0 0) (sample 3 2 0x81 0xC8 0x00 0x22 true 9 9 9) ∧
    SameRequest (sample 2 0 1 1 1 1 true 31 5 6) (sample 2 9 2 2 2 2 true 31 5 6) ∧
    (withLine (.word (.port (sample 3 3 0x80 0xC8 0x00 0x11 false 0 0 0)))).script =
      .word (.port (sample 3 3 0x80 0xC8 0x00 0x11 false 0 0 0)) :: [] ∧
    (withLine (.word (.port (sample 3 2 0x81 0xC8 0x00 0x22 true 9 9 9)))).script =
      .word (.port (sample 3 2 0x81 0xC8 0x00 0x22 true 9 9 9)) :: [] := by
  refine ⟨⟨rfl, ?_⟩, ⟨rfl, ?_⟩, rfl, rfl⟩ <;> decide

theorem witness_TrailingBytesAreIgnored :
    4 ≤ ([0x80, 0xC8, 0x00, 0x06] : List Byte).length ∧ 4 ≤ ([0x80, 0xC8, 0x00, 0x06, 0xDE, 0xAD] : List Byte).length ∧
    ([0x80, 0xC8, 0x00, 0x06] : List Byte).take 4 = ([0x80, 0xC8, 0x00, 0x06, 0xDE, 0xAD] : List Byte).take 4 := by decide

theorem witness_SaturationChangesNoResponse : 3 ≤ 3 ∧ 3 + 4 = min (100 + 4) (2 ^ 3 - 1) := by decide

theorem witness_OperationCodesSelectTheOperation :
    (sample 0 0 0 0 0 0 false 0 0 0).valid = true ∧ (sample 0 0 0 0 0 0 false 0 0 0).op.toNat = 0 ∧
    (sample 1 0 0 0 0 0 false 0 0 0).op.toNat = 1 ∧ (sample 2 0 0 0 0 0 false 0 0 0).op.toNat = 2 ∧
    (sample 3 0 0 0 0 0 false 0 0 0).op.toNat = 3 := by decide

theorem witness_DecodeOfEncodeIsTheInstruction :
    (Instr.rtcpHdrAny false 0 199 0).wellFormed = true ∧ (Instr.rtcpHdrAny false 0 208 0).wellFormed = true ∧
    (Instr.classify (.full 0 0 0 0 65531)).wellFormed = true := by decide

theorem witness_EncodeOfDecodeIsTheWord :
    (0xBFFFFFFF : HeaderWord).toNat / 2 ^ 30 = 2 ∧ (0xBFCC : PrefixWord).toNat / 2 ^ 14 = 2 ∧
    72 ≤ (0xBFCC : PrefixWord).toNat % 128 ∧ (0xBFCC : PrefixWord).toNat % 128 ≤ 76 := by decide

theorem witness_TableWordsRunAsPortRequests :
    (sample 3 9 0xA1 0xCB 0x00 0x01 false 0 0 0).b0 ++ (sample 3 9 0xA1 0xCB 0x00 0x01 false 0 0 0).b1 ++
      (sample 3 9 0xA1 0xCB 0x00 0x01 false 0 0 0).b2 ++ (sample 3 9 0xA1 0xCB 0x00 0x01 false 0 0 0).b3 = 0xA1CB0001#32 ∧
    (sample 0 4 0x80 0x48 1 2 false 0 0 0).b0 ++ (sample 0 4 0x80 0x48 1 2 false 0 0 0).b1 = 0x8048#16 ∧
    (sample 3 9 0xA1 0xCB 0x00 0x01 false 0 0 0).valid = true ∧ (sample 3 9 0xA1 0xCB 0x00 0x01 false 0 0 0).op = 3 ∧
    (sample 0 4 0x80 0x48 1 2 false 0 0 0).valid = true ∧ (sample 0 4 0x80 0x48 1 2 false 0 0 0).op = 0 ∧
    (withLine (.word (.port (sample 3 9 0xA1 0xCB 0x00 0x01 false 0 0 0)))).script =
      .word (.port (sample 3 9 0xA1 0xCB 0x00 0x01 false 0 0 0)) :: [] ∧
    (withLine (.word (.port (sample 0 4 0x80 0x48 1 2 false 0 0 0)))).script =
      .word (.port (sample 0 4 0x80 0x48 1 2 false 0 0 0)) :: [] ∧
    4 ≤ (sample 3 9 0xA1 0xCB 0x00 0x01 false 0 0 0).len ∧ 4 ≤ (sample 0 4 0x80 0x48 1 2 false 0 0 0).len ∧
    (withLine (.word (.header 0xA1CB0001))).script = .word (.header 0xA1CB0001) :: [] ∧
    (withLine (.word (.classifierWord 0x8048 7))).script = .word (.classifierWord 0x8048 7) :: [] := by decide

theorem witness_AScriptEndsInItsResponses :
    (withLine (.word (.header 0x80C80006))).script = [RequestWord.header 0x80C80006].map Line.word ++ [] := by decide

/-- Both outcomes of RECV, from 95_test_vectors.md scripts 1 and 5: a receiver report is decoded, a media packet is not. -/
theorem witness_RecvNeverEndsInAnError :
    ({ State.reset with script := recvScript 0 [0x81, 0xC9, 0x00, 0x01] } : State).script =
      recvScript State.reset.trace.length [0x81, 0xC9, 0x00, 0x01] ++ [] ∧
    recordAfter 2 { State.reset with script := recvScript 0 [0x81, 0xC9, 0x00, 0x01] } =
      some [some (.flag true), some (.record ⟨false, 1, 201, 1⟩)] ∧
    recordAfter 2 { State.reset with script := recvScript 0 [0x80, 0x08, 0x12, 0x34] } =
      some [some (.flag false), none] := by decide

theorem witness_SendThenDecodeGivesTheHeader :
    (⟨true, 31, 203, 1⟩ : Header).count.toNat ≤ 31 ∧
    ({ State.reset with script := sendScript ⟨true, 31, 203, 1⟩ ++ [.decode (.outOf 0)] } : State).script =
      sendScript ⟨true, 31, 203, 1⟩ ++ .decode (.outOf State.reset.trace.length) :: [] := by decide

end Sys2Proof.Tests
end

section
/-! PROOFS, 00_scope.md. Purity (R14): every instruction answers, and its response is chosen before the state is seen. -/

namespace Sys2Proof.Machine

/-- DECODE's response is fixed by the buffer (42_codec_decode.md R120): the one `r` serves every state. -/
theorem decodeBuffer_responds (buf : Buf) : ∃ r, ∀ s, decodeBuffer buf s = .next (responded r s) := by
  cases buf with
  | full b0 b1 b2 b3 extra =>
    by_cases hv : versionField b0 = Config.version
    · exact ⟨_, fun s => decodeBuffer_ok b0 b1 b2 b3 extra s hv⟩
    · exact ⟨_, fun s => decodeBuffer_badVersion b0 b1 b2 b3 extra s hv⟩
  | empty | one | two | three => exact ⟨_, decodeBuffer_short (by simp)⟩

/-- ENCODE's response is fixed by the header (41_codec_encode.md R103). -/
theorem encodeHeader_responds (h : Header) : ∃ r, ∀ s, encodeHeader h s = .next (responded r s) := by
  by_cases hc : Config.countMax < h.count
  · exact ⟨.error .invalidHeader, fun s => by rw [encodeHeader, if_pos hc, raise_eq_next]⟩
  · exact ⟨.bytes (assemble h), fun s => by rw [encodeHeader, if_neg hc, respond_eq_next]⟩

/-- CLASSIFY's response is the flag of the buffer (40_classifier.md R90). -/
theorem classifyBuffer_responds (buf : Buf) : ∃ r, ∀ s, classifyBuffer buf s = .next (responded r s) :=
  ⟨_, respond_eq_next (.flag (classifyFlag buf))⟩

/-- What an instruction can do, said once: it has a response of its own, and in every state it answers with that one. -/
theorem exec_responds (i : Instr) : ∃ r, ∀ s, exec i s = .next (responded r s) := by
  cases i with
  | validate count => exact ⟨_, respond_eq_next (.flag (validateFlag count))⟩
  | encode hdr => exact encodeHeader_responds hdr
  | classify | clsPt72 | clsPt73 | clsPt74 | clsPt75 | clsPt76 => exact classifyBuffer_responds _
  | decode | rtcpHdrSr | rtcpHdrRr | rtcpHdrSdes | rtcpHdrBye | rtcpHdrApp | rtcpHdrRtpfb | rtcpHdrPsfb | rtcpHdrXr
  | rtcpHdrAny =>
    simp only [exec, execDecode, execRtcpHdrSr, execRtcpHdrRr, execRtcpHdrSdes, execRtcpHdrBye, execRtcpHdrApp,
      execRtcpHdrRtpfb, execRtcpHdrPsfb, execRtcpHdrXr, execRtcpHdrAny]
    exact decodeBuffer_responds _

/-- Settles O33: both states are answered with the one response `exec_responds` gives, which is what the result and the
port carry. -/
theorem responseDependsOnTheRequestAlone : Obligations.ResponseDependsOnTheRequestAlone := by
  intro i s s'
  obtain ⟨r, hr⟩ := exec_responds i
  exact ⟨responded r s, responded r s', hr s, hr s', by simp⟩

end Sys2Proof.Machine
end

section
/-! PROOFS, 10_state.md. The response port (R29): under each operation the signal equations have the value the machine
drives. -/

namespace Sys2Proof.Machine

/-! ### The masks of the signal equations as the fields the operations read -/

/-- 30_encoding.md R63: the mask of the version bits. -/
theorem versionMask_iff (b : Byte) : b &&& 0xC0#8 = 0x80#8 ↔ versionField b = Config.version := by
  revert b; decide

/-- 41_codec_encode.md R100: a legal count has its top three bits clear. -/
theorem countMask_iff (count : Byte) : count &&& 0xE0#8 = 0#8 ↔ ¬ Config.countMax < count := by
  revert count; decide

theorem validateFlag_eq_countMask (count : Byte) : validateFlag count = decide (count &&& 0xE0#8 = 0#8) := by
  revert count; decide

/-- 10_state.md R24: the record's count, zero-extended. -/
theorem countField_zeroExtend (b : Byte) : (countField b).zeroExtend 8 = b &&& 0x1F#8 := by
  revert b; decide

/-- 30_encoding.md R72: the first output byte as the OR of version, padding bit and count. -/
theorem assemble_o0_eq_or (p : Bool) (count pt : Byte) (length : BitVec 16) (hc : ¬ Config.countMax < count) :
    (assemble ⟨p, count, pt, length⟩).o0 = 0x80#8 ||| (if p then 0x20#8 else 0#8) ||| count := by
  have terms : ∀ (p : Bool) (count : Byte), ¬ Config.countMax < count →
      (assemble ⟨p, count, 0, 0⟩).o0 = 0x80#8 ||| (if p then 0x20#8 else 0#8) ||| count := by decide
  exact terms p count hc

/-! ### The classifier's patterns (30_encoding.md R69) -/

/-- The prefix mask keeps the version bits of byte 0 and the 7-bit payload type of byte 1. -/
theorem prefixMask_append (b0 b1 : Byte) : (b0 ++ b1) &&& 0xC07F#16 = (b0 &&& 0xC0#8) ++ (b1 &&& Config.ptMask) :=
  BitVec.and_append (x₁ := b0) (x₂ := 0xC0#8) (y₁ := b1) (y₂ := 0x7F#8)

theorem append_eq_append_iff (a b c d : Byte) : a ++ b = c ++ d ↔ a = c ∧ b = d := by
  refine ⟨fun h => ⟨?_, ?_⟩, fun ⟨ha, hb⟩ => by rw [ha, hb]⟩
  · rw [← BitVec.extractLsb'_append_eq_left (a := a) (b := b), h, BitVec.extractLsb'_append_eq_left]
  · rw [← BitVec.extractLsb'_append_eq_right (a := a) (b := b), h, BitVec.extractLsb'_append_eq_right]

/-- A prefix shows the pattern of the payload type `pt` exactly when its version is 2 and its 7-bit payload type is `pt`. -/
theorem prefixMask_eq_iff (b0 b1 pt : Byte) :
    (b0 ++ b1) &&& 0xC07F#16 = 0x80#8 ++ pt ↔ versionField b0 = Config.version ∧ b1 &&& Config.ptMask = pt := by
  rw [prefixMask_append, append_eq_append_iff, versionMask_iff]

/-- The conflict range of R90 has five members, one for each prefix row. -/
theorem conflictRange_iff (m : Byte) :
    Config.ptConflictLo ≤ m ∧ m ≤ Config.ptConflictHi ↔ m = 72 ∨ m = 73 ∨ m = 74 ∨ m = 75 ∨ m = 76 := by
  revert m; decide

/-- CLASSIFY answers true exactly for the five masked patterns. -/
theorem classifyFlag_full_eq_patterns (b0 b1 b2 b3 : Byte) (e : Nat) :
    classifyFlag (.full b0 b1 b2 b3 e) =
      ((b0 ++ b1) &&& 0xC07F#16 == 0x8048#16 || (b0 ++ b1) &&& 0xC07F#16 == 0x8049#16 ||
        (b0 ++ b1) &&& 0xC07F#16 == 0x804A#16 || (b0 ++ b1) &&& 0xC07F#16 == 0x804B#16 ||
        (b0 ++ b1) &&& 0xC07F#16 == 0x804C#16) := by
  have row := prefixMask_eq_iff b0 b1
  rw [Bool.eq_iff_iff, classifyFlag_full]
  simp only [Bool.and_eq_true, Bool.or_eq_true, decide_eq_true_eq, beq_iff_eq, or_assoc, conflictRange_iff, and_or_left,
    ← row]
  rfl

/-! ### The buffer behind the wires (10_state.md R28) -/

@[simp] theorem bufLen_ofLanes (len : Nat) (b0 b1 b2 b3 : Byte) : bufLen (Buf.ofLanes len b0 b1 b2 b3) = len := by
  unfold Buf.ofLanes
  split <;> rfl

theorem ofLanes_eq_full {len : Nat} (h : 4 ≤ len) (b0 b1 b2 b3 : Byte) :
    Buf.ofLanes len b0 b1 b2 b3 = .full b0 b1 b2 b3 (len - 4) := by
  obtain ⟨extra, rfl⟩ := Nat.exists_eq_add_of_le' h
  rfl

/-! ### The port of each kind of response -/

theorem driveResponse_flag (b : Bool) :
    driveResponse (.flag b) = ⟨true, 0, b, 0, 0, 0, 0, false, 0, 0, 0⟩ := rfl

theorem driveResponse_bytes (out : OutBuf) :
    driveResponse (.bytes out) = ⟨true, 0, false, out.o0, out.o1, out.o2, out.o3, false, 0, 0, 0⟩ := rfl

theorem driveResponse_record (r : Record) :
    driveResponse (.record r) = ⟨true, 0, false, 0, 0, 0, 0, r.p, r.count.zeroExtend 8, r.pt, r.length⟩ := rfl

theorem driveResponse_error (e : Error) :
    driveResponse (.error e) = ⟨true, errorStatus e, false, 0, 0, 0, 0, false, 0, 0, 0⟩ := rfl

/-! ### The signal equations, operation by operation -/

theorem portEquations_noRequest {c : CommandPort} (hv : c.valid = false) :
    portEquations false c = ResponsePort.quiet := by
  simp [portEquations, ResponsePort.quiet, hv]

section
variable {c : CommandPort} (hv : c.valid = true)
include hv

theorem portEquations_classify (hop : c.op = 0#2) :
    portEquations false c = driveResponse (.flag (classifyFlag (Buf.ofLanes c.len c.b0 c.b1 c.b2 c.b3))) := by
  by_cases hl : 4 ≤ c.len
  · rw [ofLanes_eq_full hl, classifyFlag_full_eq_patterns]
    simp [portEquations, driveResponse_flag, hv, hop, hl]
  · rw [classifyFlag_short (by simpa using hl)]
    simp [portEquations, driveResponse_flag, hv, hop, hl]

theorem portEquations_validate (hop : c.op = 1#2) :
    portEquations false c = driveResponse (.flag (validateFlag c.count)) := by
  simp [portEquations, driveResponse_flag, validateFlag_eq_countMask, hv, hop]

theorem portEquations_encode_invalidHeader (hop : c.op = 2#2) (hc : Config.countMax < c.count) :
    portEquations false c = driveResponse (.error .invalidHeader) := by
  simp [portEquations, driveResponse_error, errorStatus, hv, hop, countMask_iff, hc]

theorem portEquations_encode_ok (hop : c.op = 2#2) (hc : ¬ Config.countMax < c.count) :
    portEquations false c = driveResponse (.bytes (assemble ⟨c.p, c.count, c.pt, c.length⟩)) := by
  rw [driveResponse_bytes, assemble_o0_eq_or _ _ _ _ hc]
  simp [portEquations, assemble, hv, hop, countMask_iff, hc]

theorem portEquations_decode_short (hop : c.op = 3#2) (hl : c.len < 4) :
    portEquations false c = driveResponse (.error .packetTooShort) := by
  simp [portEquations, driveResponse_error, errorStatus, hv, hop, hl]

theorem portEquations_decode_badVersion (hop : c.op = 3#2) (hl : 4 ≤ c.len)
    (h2 : versionField c.b0 ≠ Config.version) : portEquations false c = driveResponse (.error .badVersion) := by
  simp [portEquations, driveResponse_error, errorStatus, hv, hop, hl, versionMask_iff, h2]

theorem portEquations_decode_ok (hop : c.op = 3#2) (hl : 4 ≤ c.len) (h2 : versionField c.b0 = Config.version) :
    portEquations false c =
      driveResponse (.record ⟨paddingField c.b0, countField c.b0, c.b1, c.b2 ++ c.b3⟩) := by
  rw [driveResponse_record, countField_zeroExtend]
  simp [portEquations, paddingField, hv, hop, hl, versionMask_iff, h2]

end

/-! ### The decoder and one step on a port sample -/

/-- In every state the instruction answers, and its response stands on the port as the signal equations have it for the
sample `c`. -/
def DrivesPortOf (c : CommandPort) (i : Instr) : Prop :=
  ∃ r, (∀ s, exec i s = .next (responded r s)) ∧ driveResponse r = portEquations false c

section
variable {c : CommandPort} (hv : c.valid = true)
include hv

theorem decodePort_classify (hop : c.op = 0#2) :
    decodePort c = .instr (.classify (Buf.ofLanes c.len c.b0 c.b1 c.b2 c.b3)) := by
  simp [decodePort, hv, hop]

theorem decodePort_validate (hop : c.op = 1#2) : decodePort c = .instr (.validate c.count) := by
  simp [decodePort, hv, hop, Config.opClassify]

theorem decodePort_encode (hop : c.op = 2#2) : decodePort c = .instr (.encode ⟨c.p, c.count, c.pt, c.length⟩) := by
  simp [decodePort, hv, hop, Config.opClassify, Config.opValidate]

theorem decodePort_decode (hop : c.op = 3#2) :
    decodePort c = .instr (.decode (Buf.ofLanes c.len c.b0 c.b1 c.b2 c.b3)) := by
  simp [decodePort, hv, hop, Config.opClassify, Config.opValidate, Config.opEncode]

theorem drivesPortOf_classify (hop : c.op = 0#2) :
    DrivesPortOf c (.classify (Buf.ofLanes c.len c.b0 c.b1 c.b2 c.b3)) :=
  ⟨_, respond_eq_next _, (portEquations_classify hv hop).symm⟩

theorem drivesPortOf_validate (hop : c.op = 1#2) : DrivesPortOf c (.validate c.count) :=
  ⟨_, respond_eq_next _, (portEquations_validate hv hop).symm⟩

theorem drivesPortOf_encode (hop : c.op = 2#2) : DrivesPortOf c (.encode ⟨c.p, c.count, c.pt, c.length⟩) := by
  by_cases hc : Config.countMax < c.count
  · exact ⟨.error .invalidHeader, fun s => if_pos hc, (portEquations_encode_invalidHeader hv hop hc).symm⟩
  · exact ⟨.bytes _, fun s => if_neg hc, (portEquations_encode_ok hv hop hc).symm⟩

theorem drivesPortOf_decode (hop : c.op = 3#2) :
    DrivesPortOf c (.decode (Buf.ofLanes c.len c.b0 c.b1 c.b2 c.b3)) := by
  by_cases hl : c.len < 4
  · exact ⟨_, decodeBuffer_short (by simpa using hl), (portEquations_decode_short hv hop hl).symm⟩
  · have hl := Nat.le_of_not_lt hl
    rw [ofLanes_eq_full hl]
    by_cases h2 : versionField c.b0 = Config.version
    · exact ⟨_, fun s => decodeBuffer_ok _ _ _ _ _ s h2, (portEquations_decode_ok hv hop hl h2).symm⟩
    · exact ⟨_, fun s => decodeBuffer_badVersion _ _ _ _ _ s h2, (portEquations_decode_badVersion hv hop hl h2).symm⟩

/-- 30_encoding.md R68: all four operation codes are in use, so a valid sample decodes, and to an instruction that drives
what the signal equations give. -/
theorem decodePort_drivesPortOf : ∃ i, decodePort c = .instr i ∧ DrivesPortOf c i := by
  have codes : ∀ op : BitVec 2, op = 0#2 ∨ op = 1#2 ∨ op = 2#2 ∨ op = 3#2 := by decide
  obtain hop | hop | hop | hop := codes c.op
  · exact ⟨_, decodePort_classify hv hop, drivesPortOf_classify hv hop⟩
  · exact ⟨_, decodePort_validate hv hop, drivesPortOf_validate hv hop⟩
  · exact ⟨_, decodePort_encode hv hop, drivesPortOf_encode hv hop⟩
  · exact ⟨_, decodePort_decode hv hop, drivesPortOf_decode hv hop⟩

end

theorem step_port_instr {s : State} {c : CommandPort} {rest : List Line} {i : Instr}
    (hs : s.script = .word (.port c) :: rest) (hd : decodePort c = .instr i) :
    step s = exec i (acceptRequest (.port c) rest s) := by
  simp [step, hs, present, decode, hd]

theorem step_port_noRequest {s : State} {c : CommandPort} {rest : List Line}
    (hs : s.script = .word (.port c) :: rest) (hv : c.valid = false) :
    step s = .next (noResponse false c rest s) := by
  simp [step, hs, present, decode, decodePort, hv, RequestWord.command]

/-- Settles O29: a sample without a request leaves the port quiet; any other decodes to an instruction that drives the
port of the signal equations. -/
theorem responsePortIsCombinational : Obligations.ResponsePortIsCombinational := by
  intro s c rest hs
  cases hv : c.valid with
  | false =>
    exact ⟨_, step_port_noRequest hs hv, by simp, by simp [portEquations_noRequest hv]⟩
  | true =>
    obtain ⟨i, hd, r, hr, hport⟩ := decodePort_drivesPortOf hv
    exact ⟨_, (step_port_instr hs hd).trans (hr _), by simp [RequestWord.command], by simp [hport]⟩

end Sys2Proof.Machine
end

section
/-! PROOFS, 20_memory.md. Trailing bytes (R49): past its first four bytes a buffer leaves only a number, its length, and
neither buffer operation reads how far that goes beyond four. -/

namespace Sys2Proof.Machine

/-- 10_state.md R23: a list of at least four bytes is seen as its first four and the count of the others. -/
theorem bufOfBytes_eq_full {l : List Byte} (h : 4 ≤ l.length) :
    ∃ b0 b1 b2 b3, l.take 4 = [b0, b1, b2, b3] ∧ bufOfBytes l = .full b0 b1 b2 b3 (l.length - 4) := by
  match l with
  | b0 :: b1 :: b2 :: b3 :: rest => exact ⟨b0, b1, b2, b3, rfl, rfl⟩
  | [] | [_] | [_, _] | [_, _, _] => simp at h

/-- 42_codec_decode.md R120: which answer DECODE gives, and every field of a record, is fixed by the four bytes. -/
theorem decodeBuffer_full_extra_irrel (b0 b1 b2 b3 : Byte) (e e' : Nat) (s : State) :
    decodeBuffer (.full b0 b1 b2 b3 e) s = decodeBuffer (.full b0 b1 b2 b3 e') s := by
  by_cases hv : versionField b0 = Config.version
  · rw [decodeBuffer_ok _ _ _ _ _ _ hv, decodeBuffer_ok _ _ _ _ _ _ hv]
  · rw [decodeBuffer_badVersion _ _ _ _ _ _ hv, decodeBuffer_badVersion _ _ _ _ _ _ hv]

/-- 40_classifier.md R90: the flag is fixed by bytes 0 and 1. -/
theorem classifyBuffer_full_extra_irrel (b0 b1 b2 b3 : Byte) (e e' : Nat) (s : State) :
    classifyBuffer (.full b0 b1 b2 b3 e) s = classifyBuffer (.full b0 b1 b2 b3 e') s := by
  rw [classifyBuffer, classifyBuffer, classifyFlag_full, classifyFlag_full]

/-- Settles O35: the two buffers are `full` with the same four bytes, so they differ in their lengths beyond four alone. -/
theorem trailingBytesAreIgnored : Obligations.TrailingBytesAreIgnored := by
  intro l m s hl hm agree
  obtain ⟨b0, b1, b2, b3, takeL, bufL⟩ := bufOfBytes_eq_full hl
  obtain ⟨c0, c1, c2, c3, takeM, bufM⟩ := bufOfBytes_eq_full hm
  obtain ⟨rfl, rfl, rfl, rfl⟩ : b0 = c0 ∧ b1 = c1 ∧ b2 = c2 ∧ b3 = c3 := by
    simpa [takeL, takeM] using agree
  rw [bufL, bufM]
  exact ⟨decodeBuffer_full_extra_irrel b0 b1 b2 b3 _ _ s, classifyBuffer_full_extra_irrel b0 b1 b2 b3 _ _ s⟩

end Sys2Proof.Machine
end

section
/-! PROOFS, 30_encoding.md. The operation codes (R68), the fields DECODE returns (R63), and the OR of ENCODE's first
byte, whose terms are disjoint (R72). -/

namespace Sys2Proof.Machine

open Sys2Proof.Claims

/-! ### The terms of ENCODE's first byte (R72) -/

/-- A legal count stands in the low five bits: above them are three zeros. -/
theorem legalCount_eq_append {count : Byte} (hc : count.toNat ≤ 31) : count = 0#3 ++ count.extractLsb' 0 5 := by
  apply BitVec.eq_of_toNat_eq
  rw [BitVec.toNat_append, BitVec.extractLsb'_toNat, Nat.shiftRight_zero, Nat.mod_eq_of_lt (by omega)]
  simp

/-- The version and padding terms stand in the high three bits, so a legal count meets neither. -/
theorem highBits_and_legalCount (high : BitVec 3) {count : Byte} (hc : count.toNat ≤ 31) :
    (high ++ 0#5) &&& count = 0#8 := by
  rw [legalCount_eq_append hc, BitVec.and_append, BitVec.and_zero, BitVec.zero_and]
  rfl

theorem highBits_or_legalCount (high : BitVec 3) {count : Byte} (hc : count.toNat ≤ 31) :
    (high ++ 0#5) ||| count = high ++ count.extractLsb' 0 5 := by
  conv_lhs => rw [legalCount_eq_append hc, BitVec.or_append, BitVec.or_zero, BitVec.zero_or]

theorem paddingTerm_eq_append (p : Bool) : (if p then 0x20#8 else 0x00#8) = (0#2 ++ BitVec.ofBool p) ++ 0#5 := by
  cases p <;> rfl

theorem versionTerm_and_paddingTerm (p : Bool) : 0x80#8 &&& (if p then 0x20#8 else 0x00#8) = 0#8 := by
  cases p <;> rfl

theorem versionTerm_or_paddingTerm (p : Bool) :
    0x80#8 ||| (if p then 0x20#8 else 0x00#8) = (Config.version ++ BitVec.ofBool p) ++ 0#5 := by
  cases p <;> rfl

/-- "No carry and no overlap can occur": the OR of disjoint terms is their sum. -/
theorem toNat_or_of_and_eq_zero {x y : Byte} (disjoint : x &&& y = 0#8) : (x ||| y).toNat = x.toNat + y.toNat := by
  rw [← BitVec.add_eq_or_of_and_eq_zero x y disjoint, BitVec.toNat_add_of_and_eq_zero disjoint]

/-- Settles O18: the terms meet in no bit, so their OR carries nothing and is the sum; split into its high three and low
five bits it is the concatenation. -/
theorem encodeOrTermsAreDisjoint : Obligations.EncodeOrTermsAreDisjoint := by
  intro p count pt length hc v q
  have vq : v &&& q = 0#8 := versionTerm_and_paddingTerm p
  have vc : v &&& count = 0#8 := highBits_and_legalCount 4#3 hc
  have qc : q &&& count = 0#8 := by
    rw [show q = _ from paddingTerm_eq_append p, highBits_and_legalCount _ hc]
  have vqc : (v ||| q) &&& count = 0#8 := by rw [BitVec.and_or_distrib_right, vc, qc, BitVec.or_zero]
  have isOr : (assemble ⟨p, count, pt, length⟩).o0 = v ||| q ||| count :=
    assemble_o0_eq_or p count pt length (by rw [countMax_lt_iff]; omega)
  refine ⟨vq, vc, qc, isOr, ?_, ?_⟩
  · rw [isOr, toNat_or_of_and_eq_zero vqc, toNat_or_of_and_eq_zero vq]
  · rw [isOr, show v ||| q = _ from versionTerm_or_paddingTerm p, highBits_or_legalCount _ hc]

/-! ### The record of DECODE (R63) -/

theorem responded_eq_answered (r : Response) (s : State) : responded r s = answered s r (driveResponse r) := rfl

/-- 10_state.md R24: the count on the port is the record's five bits, zero-extended. -/
theorem driveResponse_record_eq_recordPort (p : Bool) (rc : BitVec 5) (pt : Byte) (len : BitVec 16) :
    driveResponse (.record ⟨p, rc, pt, len⟩) = recordPort p (BitVec.ofNat 8 rc.toNat) pt len := by
  rw [driveResponse_record, recordPort, BitVec.ofNat_toNat]

/-- Settles O22: the version selects DECODE's last answer, and each field of its record is the arithmetic one. -/
theorem decodeReturnsTheFields : Obligations.DecodeReturnsTheFields := by
  intro b0 b1 b2 b3 extra s hv
  have low : (BitVec.ofNat 5 (b0.toNat % 32)).toNat = b0.toNat % 32 := by
    rw [BitVec.toNat_ofNat]; exact Nat.mod_mod _ _
  calc exec (.decode (.full b0 b1 b2 b3 extra)) s
    _ = .next (responded (.record ⟨paddingField b0, countField b0, b1, b2 ++ b3⟩) s) :=
      decodeBuffer_ok b0 b1 b2 b3 extra s ((versionField_iff_div b0).mpr hv)
    _ = _ := by
      rw [responded_eq_answered, driveResponse_record_eq_recordPort, paddingField_eq_div, countField_eq_mod,
        append_eq_mul_add, low]

/-! ### The operation codes (R68) -/

/-- Settles O37: each of the four values of `req_op` selects its operation. -/
theorem operationCodesSelectTheOperation : Obligations.OperationCodesSelectTheOperation := by
  intro c hv
  exact ⟨fun code => decodePort_classify hv (BitVec.eq_of_toNat_eq code),
    fun code => decodePort_validate hv (BitVec.eq_of_toNat_eq code),
    fun code => decodePort_encode hv (BitVec.eq_of_toNat_eq code),
    fun code => decodePort_decode hv (BitVec.eq_of_toNat_eq code)⟩

end Sys2Proof.Machine
end

section
/-! PROOFS, 40_classifier.md. The flag of CLASSIFY as the arithmetic of R90. -/

namespace Sys2Proof.Machine

open Sys2Proof.Claims

/-- CLASSIFY's one answer, in every state: the flag of the buffer on a port that carries nothing else (R90, R92). -/
theorem exec_classify (buf : Buf) (s : State) :
    exec (.classify buf) s = .next (answered s (.flag (classifyFlag buf)) (flagPort (classifyFlag buf))) := rfl

/-- R90: the masked byte is compared as the number `buf[1] mod 128`. -/
theorem conflictRange_ptMask_iff (b : Byte) :
    Config.ptConflictLo ≤ b &&& Config.ptMask ∧ b &&& Config.ptMask ≤ Config.ptConflictHi ↔
      72 ≤ b.toNat % 128 ∧ b.toNat % 128 ≤ 76 := by
  rw [BitVec.le_def, BitVec.le_def, ptMask_toNat]
  rfl

/-- R90, for a buffer that passes the length check: the version and the 7-bit payload type decide. -/
theorem classifyFlag_full_eq_arith (b0 b1 b2 b3 : Byte) (e : Nat) :
    classifyFlag (.full b0 b1 b2 b3 e) =
      decide (b0.toNat / 64 = 2 ∧ 72 ≤ b1.toNat % 128 ∧ b1.toNat % 128 ≤ 76) := by
  rw [classifyFlag_full, ← Bool.decide_and, ← Bool.decide_and, decide_eq_decide, versionField_iff_div,
    conflictRange_ptMask_iff]

/-- Settles O9: a buffer of four or more bytes has the arithmetic flag; a shorter list fails the length check. -/
theorem classifyAnswersTheFlag : Obligations.ClassifyAnswersTheFlag := by
  constructor
  · intro b0 b1 b2 b3 extra s
    rw [exec_classify, classifyFlag_full_eq_arith]
  · intro l s short
    have tooShort : bufLen (bufOfBytes l) < 4 := by rwa [bufLen_bufOfBytes]
    rw [exec_classify, classifyFlag_short tooShort]

end Sys2Proof.Machine
end

section
/-! PROOFS, 41_codec_encode.md. VALIDATE's flag (R100), and the two answers of ENCODE: the four bytes as arithmetic
(R104, R105) and `InvalidHeader` (R106). -/

namespace Sys2Proof.Machine

open Sys2Proof.Claims

/-! ### VALIDATE (R100) -/

theorem validateFlag_eq_decide_le (count : Byte) : validateFlag count = decide (count.toNat ≤ 31) := by
  by_cases hc : Config.countMax < count
  · have above : ¬ count.toNat ≤ 31 := Nat.not_le.mpr ((countMax_lt_iff count).mp hc)
    rw [validateFlag, if_pos hc, decide_eq_false above]
  · have legal : count.toNat ≤ 31 := by rwa [countMax_lt_iff, Nat.not_lt] at hc
    rw [validateFlag, if_neg hc, decide_eq_true legal]

theorem exec_validate (count : Byte) (s : State) :
    exec (.validate count) s =
      .next (answered s (.flag (decide (count.toNat ≤ 31))) (flagPort (decide (count.toNat ≤ 31)))) := by
  rw [← validateFlag_eq_decide_le]
  rfl

/-- Settles O15: the count fixes VALIDATE's answer, and a sample with that operation code decodes to the VALIDATE of its
count, whatever else it carries. -/
theorem validateAnswersTheCountBound : Obligations.ValidateAnswersTheCountBound := by
  refine ⟨exec_validate, fun s c rest hs hv hop => ?_⟩
  rw [step_port_instr hs (decodePort_validate hv hop), exec_validate]
  rfl

/-! ### ENCODE with a legal count (R104, R105) -/

theorem highByte_eq_div (len : BitVec 16) : len.extractLsb' 8 8 = BitVec.ofNat 8 (len.toNat / 256) := by
  rw [BitVec.extractLsb', Nat.shiftRight_eq_div_pow]

theorem lowByte_eq_mod (len : BitVec 16) : len.extractLsb' 0 8 = BitVec.ofNat 8 (len.toNat % 256) := by
  apply BitVec.eq_of_toNat_eq
  rw [BitVec.extractLsb'_toNat, Nat.shiftRight_zero, BitVec.toNat_ofNat, Nat.mod_mod]

/-- Bytes 1 to 3 are the payload type and the raw length, big-endian. -/
theorem assemble_eq_arith (h : Header) :
    assemble h =
      ⟨(assemble h).o0, h.pt, BitVec.ofNat 8 (h.length.toNat / 256), BitVec.ofNat 8 (h.length.toNat % 256)⟩ := by
  rw [← highByte_eq_div, ← lowByte_eq_mod]
  rfl

/-- Byte 0 is the sum of its three terms, which carry nothing (30_encoding.md R72). -/
theorem assemble_o0_toNat {h : Header} (hc : h.count.toNat ≤ 31) :
    (assemble h).o0.toNat = 0x80 + 0x20 * h.p.toNat + h.count.toNat := by
  obtain ⟨-, -, -, -, isSum, -⟩ := encodeOrTermsAreDisjoint h.p h.count h.pt h.length hc
  rw [isSum]
  cases h.p <;> rfl

theorem exec_encode_ok {h : Header} (hc : h.count.toNat ≤ 31) (s : State) :
    exec (.encode h) s = .next (responded (.bytes (assemble h)) s) :=
  if_neg (by rwa [countMax_lt_iff, Nat.not_lt])

/-- Settles O16: byte 0 is the sum `assemble_o0_toNat` gives, from which its range, its padding bit and its version
follow by arithmetic. -/
theorem encodeWritesTheFourBytes : Obligations.EncodeWritesTheFourBytes := by
  intro h s hc
  have sum := assemble_o0_toNat hc
  have bit := h.p.toNat_le
  refine ⟨(assemble h).o0, ?_, sum, by omega, by omega, ?_, by omega⟩
  · rw [exec_encode_ok hc, responded_eq_answered, driveResponse_bytes, assemble_eq_arith, bytesPort]
  · have padding : (assemble h).o0.getLsbD 5 = decide ((assemble h).o0.toNat / 32 % 2 = 1) := paddingField_eq_div _
    rw [padding, decide_eq_true_iff, ← Bool.toNat_eq_one]
    omega

/-! ### ENCODE with a count above 31 (R106) -/

theorem exec_encode_invalidHeader {h : Header} (hc : 31 < h.count.toNat) (s : State) :
    exec (.encode h) s = .next (responded (.error .invalidHeader) s) :=
  if_pos ((countMax_lt_iff h.count).mpr hc)

theorem decodeBuffer_result_ne_invalidHeader {buf : Buf} {s t : State} (ht : decodeBuffer buf s = .next t) :
    t.result ≠ some (.error .invalidHeader) := by
  obtain ⟨-, eq⟩ | ⟨_, _, _, _, _, -, -, eq⟩ | ⟨_, _, _, _, _, -, -, eq⟩ := decodeBuffer_cases buf s <;>
  · cases ht.symm.trans eq
    simp

theorem classifyBuffer_result_ne_invalidHeader {buf : Buf} {s t : State} (ht : classifyBuffer buf s = .next t) :
    t.result ≠ some (.error .invalidHeader) := by
  cases ht
  simp

/-- 30_encoding.md R74: the rows of the opcode table add no operation. Every instruction but VALIDATE and ENCODE is the
CLASSIFY or the DECODE of some buffer. -/
theorem exec_eq_operation (i : Instr) :
    (∃ count, i = .validate count) ∨ (∃ h, i = .encode h) ∨
      (∃ buf, ∀ s, exec i s = classifyBuffer buf s) ∨ (∃ buf, ∀ s, exec i s = decodeBuffer buf s) := by
  cases i with
  | validate count => exact .inl ⟨count, rfl⟩
  | encode h => exact .inr (.inl ⟨h, rfl⟩)
  | classify | clsPt72 | clsPt73 | clsPt74 | clsPt75 | clsPt76 => exact .inr (.inr (.inl ⟨_, fun _ => rfl⟩))
  | decode | rtcpHdrSr | rtcpHdrRr | rtcpHdrSdes | rtcpHdrBye | rtcpHdrApp | rtcpHdrRtpfb | rtcpHdrPsfb | rtcpHdrXr
  | rtcpHdrAny =>
    simp only [exec, execDecode, execRtcpHdrSr, execRtcpHdrRr, execRtcpHdrSdes, execRtcpHdrBye, execRtcpHdrApp,
      execRtcpHdrRtpfb, execRtcpHdrPsfb, execRtcpHdrXr, execRtcpHdrAny]
    exact .inr (.inr (.inr ⟨_, fun _ => rfl⟩))

/-- Only ENCODE raises `InvalidHeader`: VALIDATE and CLASSIFY answer a flag, and DECODE has two errors of its own. -/
theorem count_gt_of_result_invalidHeader {i : Instr} {s t : State} (ht : exec i s = .next t)
    (hr : t.result = some (.error .invalidHeader)) : ∃ h : Header, i = .encode h ∧ 31 < h.count.toNat := by
  obtain ⟨count, rfl⟩ | ⟨h, rfl⟩ | ⟨buf, isClassify⟩ | ⟨buf, isDecode⟩ := exec_eq_operation i
  · cases ht.symm.trans (exec_validate count s)
    simp [answered] at hr
  · refine ⟨h, rfl, Nat.lt_of_not_le fun legal => ?_⟩
    cases ht.symm.trans (exec_encode_ok legal s)
    simp at hr
  · exact absurd hr (classifyBuffer_result_ne_invalidHeader ((isClassify s).symm.trans ht))
  · exact absurd hr (decodeBuffer_result_ne_invalidHeader ((isDecode s).symm.trans ht))

/-- Settles O17: a count above 31 selects ENCODE's error answer, and no other instruction, nor a legal count, gives that
error. -/
theorem encodeRefusesACountAbove31 : Obligations.EncodeRefusesACountAbove31 :=
  ⟨fun _ s hc => exec_encode_invalidHeader hc s, fun _ _ _ => count_gt_of_result_invalidHeader⟩

end Sys2Proof.Machine
end

section
/-! PROOFS, 42_codec_decode.md. The two errors of DECODE: `PacketTooShort` (R121) and `BadVersion` (R123), and who
raises an error at all. -/

namespace Sys2Proof.Machine

open Sys2Proof.Claims

theorem exec_decode (buf : Buf) (s : State) : exec (.decode buf) s = decodeBuffer buf s := rfl

/-! ### The header rows (30_encoding.md R67) -/

/-- The version of a header word's first byte is the word's own. -/
theorem versionField_extractLsb' (w : HeaderWord) : versionField (w.extractLsb' 24 8) = w.extractLsb' 30 2 := by
  apply BitVec.eq_of_getLsbD_eq
  intro i hi
  have inByte : 6 + i < 8 := by omega
  simp [versionField, hi, inByte, ← Nat.add_assoc]

/-- A header row's word has version 2, so its DECODE answers a record (R66, R67). -/
theorem decodeBuffer_headerWord (p : Bool) (rc : BitVec 5) (pt : Byte) (len : BitVec 16) :
    ∃ res, ∀ s, decodeBuffer (Buf.ofWord (headerWord p rc pt len)) s = .next (responded (.record res) s) := by
  obtain ⟨-, -, -, -, version⟩ := headerWord_fields p rc pt len
  exact ⟨_, fun s => decodeBuffer_ok _ _ _ _ _ s ((versionField_extractLsb' _).trans version)⟩

/-- `exec_eq_operation`, with the DECODE itself told apart from the header rows, which answer a record. -/
theorem exec_eq_operation_or_record (i : Instr) :
    (∃ count, i = .validate count) ∨ (∃ h, i = .encode h) ∨ (∃ buf, i = .decode buf) ∨
      (∃ buf, ∀ s, exec i s = classifyBuffer buf s) ∨ (∃ res, ∀ s, exec i s = .next (responded (.record res) s)) := by
  cases i with
  | validate count => exact .inl ⟨count, rfl⟩
  | encode h => exact .inr (.inl ⟨h, rfl⟩)
  | decode buf => exact .inr (.inr (.inl ⟨buf, rfl⟩))
  | classify | clsPt72 | clsPt73 | clsPt74 | clsPt75 | clsPt76 => exact .inr (.inr (.inr (.inl ⟨_, fun _ => rfl⟩)))
  | rtcpHdrSr | rtcpHdrRr | rtcpHdrSdes | rtcpHdrBye | rtcpHdrApp | rtcpHdrRtpfb | rtcpHdrPsfb | rtcpHdrXr
  | rtcpHdrAny => exact .inr (.inr (.inr (.inr (decodeBuffer_headerWord _ _ _ _))))

/-! ### Who raises which error (60_exceptions.md R141) -/

/-- An error in the response names its instruction and the failed check. -/
theorem exec_result_error_cases {i : Instr} {s t : State} {e : Error} (ht : exec i s = .next t)
    (hr : t.result = some (.error e)) :
    (e = .invalidHeader ∧ ∃ h, i = .encode h) ∨
    (e = .packetTooShort ∧ ∃ buf, i = .decode buf ∧ bufLen buf < 4) ∨
    (e = .badVersion ∧ ∃ b0 b1 b2 b3 extra, i = .decode (.full b0 b1 b2 b3 extra) ∧
      versionField b0 ≠ Config.version) := by
  obtain ⟨count, rfl⟩ | ⟨h, rfl⟩ | ⟨buf, rfl⟩ | ⟨buf, isClassify⟩ | ⟨res, isRecord⟩ := exec_eq_operation_or_record i
  · cases ht.symm.trans (exec_validate count s)
    simp [answered] at hr
  · obtain ⟨-, eq⟩ | ⟨-, eq⟩ := encodeHeader_cases h s <;> cases ht.symm.trans eq
    · exact .inl ⟨by simpa using hr.symm, h, rfl⟩
    · simp at hr
  · obtain ⟨short, eq⟩ | ⟨b0, b1, b2, b3, extra, rfl, hv, eq⟩ | ⟨b0, b1, b2, b3, extra, rfl, -, eq⟩ :=
      decodeBuffer_cases buf s <;> cases ht.symm.trans eq
    · exact .inr (.inl ⟨by simpa using hr.symm, buf, rfl, short⟩)
    · exact .inr (.inr ⟨by simpa using hr.symm, b0, b1, b2, b3, extra, rfl, hv⟩)
    · simp at hr
  · cases ht.symm.trans (isClassify s)
    simp at hr
  · cases ht.symm.trans (isRecord s)
    simp at hr

/-! ### PacketTooShort (R121) -/

theorem bufLen_lt_of_result_packetTooShort {i : Instr} {s t : State} (ht : exec i s = .next t)
    (hr : t.result = some (.error .packetTooShort)) : ∃ buf, i = .decode buf ∧ bufLen buf < 4 := by
  obtain ⟨⟨⟩, -⟩ | ⟨-, short⟩ | ⟨⟨⟩, -⟩ := exec_result_error_cases ht hr
  exact short

/-- Settles O23: the length check comes first, and its failure is the one source of `PacketTooShort`. -/
theorem decodeOfAShortBufferIsPacketTooShort : Obligations.DecodeOfAShortBufferIsPacketTooShort := by
  refine ⟨fun l s short => ?_, fun _ _ _ => bufLen_lt_of_result_packetTooShort⟩
  exact decodeBuffer_short (by rwa [bufLen_bufOfBytes]) s

/-! ### BadVersion (R123) -/

theorem version_ne_of_result_badVersion {i : Instr} {s t : State} (ht : exec i s = .next t)
    (hr : t.result = some (.error .badVersion)) :
    ∃ b0 b1 b2 b3 extra, i = .decode (.full b0 b1 b2 b3 extra) ∧ b0.toNat / 64 ≠ 2 := by
  obtain ⟨⟨⟩, -⟩ | ⟨⟨⟩, -⟩ | ⟨-, b0, b1, b2, b3, extra, isDecode, hv⟩ := exec_result_error_cases ht hr
  exact ⟨b0, b1, b2, b3, extra, isDecode, fun two => hv ((versionField_iff_div b0).mpr two)⟩

/-- The bytes of version 2 are 0x80 to 0xBF. -/
theorem versionField_iff_range (b : Byte) : versionField b = Config.version ↔ 0x80 ≤ b.toNat ∧ b.toNat ≤ 0xBF := by
  rw [versionField_iff_div]
  omega

theorem responseOf_eq_result {i : Instr} {s t : State} (ht : exec i s = .next t) : responseOf i s = t.result := by
  rw [responseOf, ht]

theorem responseOf_decode_ok {b0 : Byte} (b1 b2 b3 : Byte) (extra : Nat) (s : State)
    (hv : versionField b0 = Config.version) :
    responseOf (.decode (.full b0 b1 b2 b3 extra)) s =
      some (.record ⟨paddingField b0, countField b0, b1, b2 ++ b3⟩) :=
  responseOf_eq_result ((exec_decode _ s).trans (decodeBuffer_ok b0 b1 b2 b3 extra s hv))

/-- Settles O24: the range of byte 0 is its version, which selects the error or the record, and its failed check is the
one source of `BadVersion`. -/
theorem decodeOfAnotherVersionIsBadVersion : Obligations.DecodeOfAnotherVersionIsBadVersion := by
  refine ⟨fun b0 b1 b2 b3 extra s outside => ?_, fun b0 b1 b2 b3 extra s low high => ?_,
    fun _ _ _ => version_ne_of_result_badVersion⟩
  · exact decodeBuffer_badVersion b0 b1 b2 b3 extra s (by rw [ne_eq, versionField_iff_range]; omega)
  · exact ⟨_, responseOf_decode_ok b1 b2 b3 extra s ((versionField_iff_range b0).mpr ⟨low, high⟩)⟩

end Sys2Proof.Machine
end

section
/-! PROOFS, 60_exceptions.md. The status codes (R141) of the four operations, and an error on the response port
(R145). -/

namespace Sys2Proof.Machine

open Sys2Proof.Claims

/-! ### The status of a response (R141) -/

@[simp] theorem driveResponse_status (r : Response) : (driveResponse r).status = responseStatus r := by
  cases r <;> rfl

theorem errorOfStatus_errorStatus (e : Error) : errorOfStatus (errorStatus e) = some e := by
  cases e <;> rfl

/-- The status of a response stands for the error in it, or for none. -/
theorem errorIn_eq_errorOfStatus (r : Response) : errorIn (some r) = errorOfStatus (responseStatus r) := by
  cases r with
  | flag | bytes | record => rfl
  | error e => exact (errorOfStatus_errorStatus e).symm

/-- An instruction's response fixes both the status on the port and the error in the abstract result. -/
theorem status_of_exec_eq {i : Instr} {s : State} {r : Response} (answer : exec i s = .next (responded r s)) :
    ∃ t, exec i s = .next t ∧ t.rsp.status = responseStatus r ∧ errorIn t.result = errorOfStatus t.rsp.status :=
  ⟨_, answer, by simp, by simp [errorIn_eq_errorOfStatus]⟩

/-! ### The status of each operation (R141, R142) -/

theorem status_of_exec_encode (h : Header) (s : State) :
    ∃ t, exec (.encode h) s = .next t ∧ t.rsp.status = (if h.count.toNat ≤ 31 then 0 else 1) ∧
      errorIn t.result = errorOfStatus t.rsp.status := by
  split
  next legal => exact status_of_exec_eq (exec_encode_ok legal s)
  next above => exact status_of_exec_eq (exec_encode_invalidHeader (Nat.lt_of_not_le above) s)

/-- The length is checked before the version (R142): only a list of four or more bytes has its first byte looked at. -/
theorem status_of_exec_decode (l : List Byte) (s : State) :
    ∃ t, exec (.decode (bufOfBytes l)) s = .next t ∧
      t.rsp.status = (if l.length < 4 then 2 else if (l.headD 0).toNat / 64 = 2 then 0 else 3) ∧
      errorIn t.result = errorOfStatus t.rsp.status := by
  split
  next short => exact status_of_exec_eq ((exec_decode _ s).trans (decodeBuffer_short (by rwa [bufLen_bufOfBytes]) s))
  next long =>
    match l with
    | b0 :: b1 :: b2 :: b3 :: rest =>
      have version := versionField_iff_div b0
      split
      next two =>
        exact status_of_exec_eq ((exec_decode _ s).trans (decodeBuffer_ok b0 b1 b2 b3 _ s (version.mpr two)))
      next other =>
        exact status_of_exec_eq ((exec_decode _ s).trans (decodeBuffer_badVersion b0 b1 b2 b3 _ s (version.not.mpr other)))
    | [] | [_] | [_, _] | [_, _, _] => simp at long

/-- Settles O30: CLASSIFY and VALIDATE answer a flag, whose status is 0; the checks of ENCODE and DECODE select the
response whose status is claimed. -/
theorem statusOfEachOperation : Obligations.StatusOfEachOperation :=
  ⟨fun buf s => status_of_exec_eq (r := .flag _) (exec_classify buf s),
    fun count s => status_of_exec_eq (r := .flag _) (exec_validate count s),
    status_of_exec_encode, status_of_exec_decode⟩

/-! ### An error on the response port (R145) -/

theorem driveResponse_error_eq_errorPort (e : Error) : driveResponse (.error e) = errorPort (errorStatus e) := rfl

/-- Settles O31: an instruction's result and port carry the one response `exec_responds` gives, and the port of an error
is its code and no data. -/
theorem anErrorCarriesNoData : Obligations.AnErrorCarriesNoData := by
  intro i s t e ht hr
  obtain ⟨r, answer⟩ := exec_responds i
  cases ht.symm.trans (answer s)
  obtain rfl : r = .error e := by simpa using hr
  exact ⟨errorStatus e, errorOfStatus_errorStatus e, driveResponse_error_eq_errorPort e⟩

end Sys2Proof.Machine
end

section
/-! PROOFS, 30_encoding.md. Decode and encode agree (R71, R74): the request of each operation decodes to it, the header
rows are told apart by the payload type, the prefix rows by its low seven bits, and a word of version 2 is assembled from
its fields. -/

namespace Sys2Proof.Machine

/-! ### The requests of the four operations (R68; 10_state.md R28) -/

@[simp] theorem withBuf_valid (c : CommandPort) (buf : Buf) : (c.withBuf buf).valid = c.valid := by
  cases buf <;> rfl

@[simp] theorem withBuf_op (c : CommandPort) (buf : Buf) : (c.withBuf buf).op = c.op := by
  cases buf <;> rfl

/-- The block sees the buffer the host drove, whatever the lanes without a byte carry. -/
@[simp] theorem ofLanes_withBuf (c : CommandPort) (buf : Buf) :
    Buf.ofLanes (c.withBuf buf).len (c.withBuf buf).b0 (c.withBuf buf).b1 (c.withBuf buf).b2 (c.withBuf buf).b3 = buf := by
  cases buf <;> rfl

theorem decodePort_classifyCommand (wires : CommandPort) (buf : Buf) :
    decodePort (classifyCommand wires buf) = .instr (.classify buf) := by
  rw [decodePort_classify (by simp [classifyCommand, requestFor]) (by simp [classifyCommand, requestFor]),
    classifyCommand, ofLanes_withBuf]

theorem decodePort_decodeCommand (wires : CommandPort) (buf : Buf) :
    decodePort (decodeCommand wires buf) = .instr (.decode buf) := by
  rw [decodePort_decode (by simp [decodeCommand, requestFor]) (by simp [decodeCommand, requestFor]),
    decodeCommand, ofLanes_withBuf]

theorem decodePort_validateCommand (wires : CommandPort) (count : Byte) :
    decodePort (validateCommand wires count) = .instr (.validate count) :=
  decodePort_validate rfl rfl

theorem decodePort_encodeCommand (wires : CommandPort) (h : Header) :
    decodePort (encodeCommand wires h) = .instr (.encode h) :=
  decodePort_encode rfl rfl

/-! ### The header rows (R66, R74) -/

/-- A payload type is one of the eight named ones or has no named row. -/
theorem namedPt_cases (pt : Byte) :
    pt = Config.ptSr ∨ pt = Config.ptRr ∨ pt = Config.ptSdes ∨ pt = Config.ptBye ∨ pt = Config.ptApp ∨
      pt = Config.ptRtpfb ∨ pt = Config.ptPsfb ∨ pt = Config.ptXr ∨ namedPt pt = false := by
  revert pt; decide

theorem ne_named_of_unnamed {pt : Byte} (unnamed : namedPt pt = false) :
    pt ≠ Config.ptSr ∧ pt ≠ Config.ptRr ∧ pt ≠ Config.ptSdes ∧ pt ≠ Config.ptBye ∧ pt ≠ Config.ptApp ∧
      pt ≠ Config.ptRtpfb ∧ pt ≠ Config.ptPsfb ∧ pt ≠ Config.ptXr := by
  revert pt; decide

/-- The eight named rows, each with the fields of its word. -/
theorem decodeHeaderWord_named (p : Bool) (rc : BitVec 5) (len : BitVec 16) :
    decodeHeaderWord (headerWord p rc Config.ptSr len) = .rtcpHdrSr p rc len ∧
    decodeHeaderWord (headerWord p rc Config.ptRr len) = .rtcpHdrRr p rc len ∧
    decodeHeaderWord (headerWord p rc Config.ptSdes len) = .rtcpHdrSdes p rc len ∧
    decodeHeaderWord (headerWord p rc Config.ptBye len) = .rtcpHdrBye p rc len ∧
    decodeHeaderWord (headerWord p rc Config.ptApp len) = .rtcpHdrApp p rc len ∧
    decodeHeaderWord (headerWord p rc Config.ptRtpfb len) = .rtcpHdrRtpfb p rc len ∧
    decodeHeaderWord (headerWord p rc Config.ptPsfb len) = .rtcpHdrPsfb p rc len ∧
    decodeHeaderWord (headerWord p rc Config.ptXr len) = .rtcpHdrXr p rc len := by
  and_intros <;> simp only [decodeHeaderWord, headerWord_fields] <;> rfl

/-- The catch-all row: the named rows are tried first, and none has this payload type. -/
theorem decodeHeaderWord_any (p : Bool) (rc : BitVec 5) {pt : Byte} (len : BitVec 16) (unnamed : namedPt pt = false) :
    decodeHeaderWord (headerWord p rc pt len) = .rtcpHdrAny p rc pt len := by
  simp only [decodeHeaderWord, headerWord_fields, ne_named_of_unnamed unnamed, if_true, if_false]

/-- A word of another version is in no row (R70). -/
theorem decodeHeaderWord_badVersion {w : HeaderWord} (hv : w.extractLsb' 30 2 ≠ Config.version) :
    decodeHeaderWord w = .decode (Buf.ofWord w) :=
  if_neg hv

/-- A word of version 2 is an assembled one. -/
theorem exists_headerWord {w : HeaderWord} (hv : w.extractLsb' 30 2 = Config.version) :
    ∃ p rc pt len, w = headerWord p rc pt len :=
  ⟨_, _, _, _, (headerWord_of_fields w hv).symm⟩

/-! ### The prefix rows (R69, R74) -/

/-- A 7-bit payload type is that of one of the five rows or lies outside their range. -/
theorem prefixRow_cases (pt7 : BitVec 7) :
    pt7 = 72#7 ∨ pt7 = 73#7 ∨ pt7 = 74#7 ∨ pt7 = 75#7 ∨ pt7 = 76#7 ∨ ¬ (72 ≤ pt7.toNat ∧ pt7.toNat ≤ 76) := by
  revert pt7; decide

/-- The five prefix rows, each with the ignored bits, the marker bit and the further bytes of its word. -/
theorem decodeClassifierWord_row (x : BitVec 6) (m : Bool) (rest : BitVec 16) :
    decodeClassifierWord (classifierPrefix x m 72#7) rest = .clsPt72 x m rest ∧
    decodeClassifierWord (classifierPrefix x m 73#7) rest = .clsPt73 x m rest ∧
    decodeClassifierWord (classifierPrefix x m 74#7) rest = .clsPt74 x m rest ∧
    decodeClassifierWord (classifierPrefix x m 75#7) rest = .clsPt75 x m rest ∧
    decodeClassifierWord (classifierPrefix x m 76#7) rest = .clsPt76 x m rest := by
  and_intros <;> simp only [decodeClassifierWord, classifierPrefix_fields] <;> rfl

/-- A prefix of version 2 that is in no row is a plain CLASSIFY of its bytes. -/
theorem decodeClassifierWord_noRow (x : BitVec 6) (m : Bool) {pt7 : BitVec 7} (rest : BitVec 16)
    (outside : ¬ (72 ≤ pt7.toNat ∧ pt7.toNat ≤ 76)) :
    decodeClassifierWord (classifierPrefix x m pt7) rest =
      .classify (Buf.ofPrefix (classifierPrefix x m pt7) rest) := by
  have noRow : pt7 ≠ 72#7 ∧ pt7 ≠ 73#7 ∧ pt7 ≠ 74#7 ∧ pt7 ≠ 75#7 ∧ pt7 ≠ 76#7 := by
    revert pt7; decide
  simp only [decodeClassifierWord, classifierPrefix_fields, noRow, if_true, if_false]

/-- A prefix of another version is a plain CLASSIFY of its bytes too. -/
theorem decodeClassifierWord_badVersion {h : PrefixWord} (rest : BitVec 16) (hv : h.extractLsb' 14 2 ≠ Config.version) :
    decodeClassifierWord h rest = .classify (Buf.ofPrefix h rest) :=
  if_neg hv

/-- A prefix of version 2 is an assembled one. -/
theorem exists_classifierPrefix {h : PrefixWord} (hv : h.extractLsb' 14 2 = Config.version) :
    ∃ x m pt7, h = classifierPrefix x m pt7 :=
  ⟨_, _, _, (classifierPrefix_of_fields h hv).symm⟩

/-- Settles O39: the four operations come back from the port, a header word from its row's payload type, a prefix from its
row's seven bits; only the catch-all row needs its instruction well formed. -/
theorem decodeOfEncodeIsTheInstruction : Obligations.DecodeOfEncodeIsTheInstruction := by
  intro c i hw
  cases i with
  | classify buf => exact decodePort_classifyCommand c buf
  | validate count => exact decodePort_validateCommand c count
  | encode h => exact decodePort_encodeCommand c h
  | decode buf => exact decodePort_decodeCommand c buf
  | rtcpHdrAny p rc pt len =>
    have unnamed : namedPt pt = false := by simpa [Instr.wellFormed] using hw
    exact congrArg Decoded.instr (decodeHeaderWord_any p rc len unnamed)
  | rtcpHdrSr | rtcpHdrRr | rtcpHdrSdes | rtcpHdrBye | rtcpHdrApp | rtcpHdrRtpfb | rtcpHdrPsfb | rtcpHdrXr =>
    simp only [encode, decode, decodeHeaderWord_named]
  | clsPt72 | clsPt73 | clsPt74 | clsPt75 | clsPt76 => simp only [encode, decode, decodeClassifierWord_row]

/-! ### Words back from their instructions (R71) -/

theorem version_of_toNat_div {w : HeaderWord} (two : w.toNat / 2 ^ 30 = 2) : w.extractLsb' 30 2 = Config.version := by
  apply BitVec.eq_of_toNat_eq
  rw [BitVec.extractLsb'_toNat, Nat.shiftRight_eq_div_pow, two]
  rfl

theorem prefixVersion_of_toNat_div {h : PrefixWord} (two : h.toNat / 2 ^ 14 = 2) :
    h.extractLsb' 14 2 = Config.version := by
  apply BitVec.eq_of_toNat_eq
  rw [BitVec.extractLsb'_toNat, Nat.shiftRight_eq_div_pow, two]
  rfl

theorem classifierPrefix_toNat_mod (x : BitVec 6) (m : Bool) (pt7 : BitVec 7) :
    (classifierPrefix x m pt7).toNat % 128 = pt7.toNat := by
  obtain ⟨-, -, low, -⟩ := classifierPrefix_fields x m pt7
  conv_rhs => rw [← low, BitVec.extractLsb'_toNat, Nat.shiftRight_zero]

theorem encode_decodeHeaderWord (c : CommandPort) (p : Bool) (rc : BitVec 5) (pt : Byte) (len : BitVec 16) :
    encode c (decodeHeaderWord (headerWord p rc pt len)) = .header (headerWord p rc pt len) ∧
      (decodeHeaderWord (headerWord p rc pt len)).wellFormed = true := by
  obtain rfl | rfl | rfl | rfl | rfl | rfl | rfl | rfl | unnamed := namedPt_cases pt
  case inr.inr.inr.inr.inr.inr.inr.inr => simp [decodeHeaderWord_any _ _ _ unnamed, encode, Instr.wellFormed, unnamed]
  all_goals simp only [decodeHeaderWord_named, encode, Instr.wellFormed, and_self]

/-- Settles O40: a word of version 2 is assembled from its fields, which its row's instruction holds; likewise a prefix
whose seven bits have a row. -/
theorem encodeOfDecodeIsTheWord : Obligations.EncodeOfDecodeIsTheWord := by
  constructor
  · intro c w two
    obtain ⟨p, rc, pt, len, rfl⟩ := exists_headerWord (version_of_toNat_div two)
    exact encode_decodeHeaderWord c p rc pt len
  · intro c h rest two lo hi
    obtain ⟨x, m, pt7, rfl⟩ := exists_classifierPrefix (prefixVersion_of_toNat_div two)
    rw [classifierPrefix_toNat_mod] at lo hi
    obtain rfl | rfl | rfl | rfl | rfl | outside := prefixRow_cases pt7
    case inr.inr.inr.inr.inr => exact absurd ⟨lo, hi⟩ outside
    all_goals simp only [decodeClassifierWord_row, encode]

/-! ### The header rows as masks (R66, R74) -/

/-- Both row masks keep the version bits. -/
theorem version_of_mask {w mask pattern : HeaderWord} (shows : w &&& mask = pattern)
    (keeps : mask.extractLsb' 30 2 = 3#2) (version : pattern.extractLsb' 30 2 = Config.version) :
    w.extractLsb' 30 2 = Config.version := by
  have all : w.extractLsb' 30 2 &&& 3#2 = w.extractLsb' 30 2 := BitVec.and_allOnes
  rw [← all, ← keeps, ← BitVec.extractLsb'_and, shows, version]

/-- A word of version 2 shows the pattern of the payload type `row` exactly when that is its payload type. -/
theorem namedMask_headerWord_iff (p : Bool) (rc : BitVec 5) (pt row : Byte) (len : BitVec 16) :
    headerWord p rc pt len &&& 0xC0FF0000 = headerWord false 0 row 0 ↔ pt = row := by
  rw [Laws.headerWord_named_mask]
  refine ⟨fun same => ?_, fun same => by rw [same]⟩
  obtain ⟨-, -, left, -⟩ := headerWord_fields false 0 pt 0
  obtain ⟨-, -, right, -⟩ := headerWord_fields false 0 row 0
  rw [← left, same, right]

/-- The patterns of the named rows are words with no other bit set. -/
theorem namedPattern_eq_headerWord :
    (0x80C80000 : HeaderWord) = headerWord false 0 Config.ptSr 0 ∧
    (0x80C90000 : HeaderWord) = headerWord false 0 Config.ptRr 0 ∧
    (0x80CA0000 : HeaderWord) = headerWord false 0 Config.ptSdes 0 ∧
    (0x80CB0000 : HeaderWord) = headerWord false 0 Config.ptBye 0 ∧
    (0x80CC0000 : HeaderWord) = headerWord false 0 Config.ptApp 0 ∧
    (0x80CD0000 : HeaderWord) = headerWord false 0 Config.ptRtpfb 0 ∧
    (0x80CE0000 : HeaderWord) = headerWord false 0 Config.ptPsfb 0 ∧
    (0x80CF0000 : HeaderWord) = headerWord false 0 Config.ptXr 0 := by
  decide

/-- Settles O41: each mask keeps the version, so outside version 2 no row shows and none is decoded; a word of version 2
is assembled, and its payload type alone decides which pattern shows and which row is decoded. -/
theorem headerRowsAreTheirMasks : Obligations.HeaderRowsAreTheirMasks := by
  intro w
  by_cases hv : w.extractLsb' 30 2 = Config.version
  · obtain ⟨p, rc, pt, len, rfl⟩ := exists_headerWord hv
    obtain ⟨-, -, type, -⟩ := headerWord_fields p rc pt len
    simp only [namedPattern_eq_headerWord, namedMask_headerWord_iff, Laws.headerWord_any_mask, type]
    obtain rfl | rfl | rfl | rfl | rfl | rfl | rfl | rfl | unnamed := namedPt_cases pt
    case inr.inr.inr.inr.inr.inr.inr.inr =>
      simp [decodeHeaderWord_any _ _ _ unnamed, unnamed, ne_named_of_unnamed unnamed]
    all_goals
      simp [decodeHeaderWord_named, namedPt, Config.ptSr, Config.ptRr, Config.ptSdes, Config.ptBye, Config.ptApp,
        Config.ptRtpfb, Config.ptPsfb, Config.ptXr]
  · have noMask : ∀ {mask pattern : HeaderWord}, mask.extractLsb' 30 2 = 3#2 →
        pattern.extractLsb' 30 2 = Config.version → w &&& mask ≠ pattern :=
      fun keeps version shows => hv (version_of_mask shows keeps version)
    rw [decodeHeaderWord_badVersion hv]
    simp [noMask]

/-! ### Sample words (R60, R66, R68, R69) -/

/-- Settles O38: seven closed words, each evaluated by the decoder. -/
theorem sampleWordsDecode : Obligations.SampleWordsDecode := by
  unfold Obligations.SampleWordsDecode
  decide

end Sys2Proof.Machine
end

section
/-! PROOFS, 10_state.md. What a request stands for on the command port (R28), the step line by line (R30, R33), and the
invariant it keeps (R29, R34; 70_reset_and_hazards.md R171). -/

namespace Sys2Proof.Machine

open Sys2Proof.Claims

/-! ### Header words and prefixes run as the operations on their bytes (30_encoding.md R74) -/

/-- Whatever its row, a header word is the DECODE of its four bytes. -/
theorem exec_decodeHeaderWord (w : HeaderWord) (s : State) :
    exec (decodeHeaderWord w) s = exec (.decode (Buf.ofWord w)) s := by
  by_cases hv : w.extractLsb' 30 2 = Config.version
  · obtain ⟨p, rc, pt, len, rfl⟩ := exists_headerWord hv
    obtain rfl | rfl | rfl | rfl | rfl | rfl | rfl | rfl | unnamed := namedPt_cases pt
    case inr.inr.inr.inr.inr.inr.inr.inr => rw [decodeHeaderWord_any _ _ _ unnamed]; rfl
    all_goals simp only [decodeHeaderWord_named]; rfl
  · rw [decodeHeaderWord_badVersion hv]

/-- Whatever its row, a prefix is the CLASSIFY of a buffer that begins with it. -/
theorem exec_decodeClassifierWord (h : PrefixWord) (rest : BitVec 16) (s : State) :
    exec (decodeClassifierWord h rest) s = exec (.classify (Buf.ofPrefix h rest)) s := by
  by_cases hv : h.extractLsb' 14 2 = Config.version
  · obtain ⟨x, m, pt7, rfl⟩ := exists_classifierPrefix hv
    obtain rfl | rfl | rfl | rfl | rfl | outside := prefixRow_cases pt7
    case inr.inr.inr.inr.inr => rw [decodeClassifierWord_noRow _ _ _ outside]
    all_goals simp only [decodeClassifierWord_row]; rfl
  · rw [decodeClassifierWord_badVersion rest hv]

/-- A word that decodes puts a valid sample on the command port, and that sample decodes to an instruction of the same
meaning. -/
theorem decodePort_command {w : RequestWord} {i : Instr} (hd : decode w = .instr i) (wires : CommandPort) :
    (w.command wires).valid = true ∧
      ∃ j, decodePort (w.command wires) = .instr j ∧ ∀ s, exec i s = exec j s := by
  cases w with
  | port c =>
    refine ⟨?_, i, hd, fun _ => rfl⟩
    by_contra hv
    cases (if_neg hv : decodePort c = .rejected .noRequest).symm.trans hd
  | header w =>
    cases hd
    exact ⟨by simp [RequestWord.command, decodeCommand, requestFor], _, decodePort_decodeCommand _ _,
      exec_decodeHeaderWord w⟩
  | classifierWord h rest =>
    cases hd
    exact ⟨by simp [RequestWord.command, classifyCommand, requestFor], _, decodePort_classifyCommand _ _,
      exec_decodeClassifierWord h rest⟩

/-- So the word's instruction drives what the signal equations give for that sample. -/
theorem decode_drivesPortOf {w : RequestWord} {i : Instr} (hd : decode w = .instr i) (wires : CommandPort) :
    DrivesPortOf (w.command wires) i := by
  obtain ⟨hv, j, hj, same⟩ := decodePort_command hd wires
  obtain ⟨k, hk, r, answer, port⟩ := decodePort_drivesPortOf hv
  obtain rfl : j = k := Decoded.instr.inj (hj.symm.trans hk)
  exact ⟨r, fun s => (same s).trans (answer s), port⟩

/-! ### One step, line by line -/

theorem step_idle {s : State} (hs : s.script = []) : step s = .next (idle s) := by
  simp [step, hs]

section
variable {s : State} {line : Line} {rest : List Line} (hs : s.script = line :: rest)
include hs

theorem step_nothing (hp : present s.trace line = .nothing) :
    step s = .next (noResponse false (idleCommand s) rest s) := by
  simp [step, hs, hp]

theorem step_underReset {c : CommandPort} (hp : present s.trace line = .underReset c) :
    step s = .next (noResponse true c rest s) := by
  simp [step, hs, hp]

theorem step_request {w : RequestWord} {i : Instr} (hp : present s.trace line = .request w) (hd : decode w = .instr i) :
    step s = exec i (acceptRequest w rest s) := by
  simp [step, hs, hp, hd]

theorem step_rejected {w : RequestWord} {r : Reject} (hp : present s.trace line = .request w)
    (hd : decode w = .rejected r) : step s = .next (noResponse false (w.command (wires s)) rest s) := by
  simp [step, hs, hp, hd]

end

/-- Settles O5: the request branch of a step. -/
theorem stepRunsTheDecodedInstruction : Obligations.StepRunsTheDecodedInstruction :=
  fun _ _ _ _ _ hs hp hd => step_request hs hp hd

/-- Settles O6: a literal line presents its word, and the encoded word decodes to its instruction. -/
theorem stepRunsAnEncodedInstruction : Obligations.StepRunsAnEncodedInstruction :=
  fun _ _ i c wellFormed hs => step_request hs rfl (decodeOfEncodeIsTheInstruction c i wellFormed)

/-- Settles O7: a sample that is no request takes the quiet branch, and so does an empty script. -/
theorem withoutARequestTheResponseIsZero : Obligations.WithoutARequestTheResponseIsZero :=
  ⟨fun _ _ _ hs hv => step_port_noRequest hs hv,
    fun s hs => ⟨idle s, step_idle hs, rfl, rfl, rfl, rfl, hs⟩⟩

/-- Settles O8: a line under reset is answered without its request being decoded. -/
theorem underResetNoRequestIsAnswered : Obligations.UnderResetNoRequestIsAnswered :=
  fun _ _ _ hs => step_underReset hs rfl

/-- Settles O32: an instruction's one response is all that `responded` writes. -/
theorem execChangesOnlyTheResponse : Obligations.ExecChangesOnlyTheResponse := by
  intro i s t ht
  obtain ⟨r, answer⟩ := exec_responds i
  cases ht.symm.trans (answer s)
  exact ⟨rfl, rfl, rfl, r, rfl, rfl⟩

/-- Settles O4: of the four things a step can do, three answer at once, and the fourth runs an instruction, which
answers. -/
theorem stepAlwaysAnswersNext : Obligations.StepAlwaysAnswersNext := by
  intro s
  obtain ⟨hs, eq⟩ | ⟨line, rest, c, hs, -, eq⟩ | ⟨line, rest, c, hs, -, eq⟩ | ⟨line, rest, w, i, hs, -, -, eq⟩ :=
    step_cases s
  · exact ⟨_, eq, by simp [hs], by simp, by simp [hs]⟩
  · exact ⟨_, eq, by simp [hs], by simp [hs], by simp⟩
  · exact ⟨_, eq, by simp [hs], by simp [hs], by simp⟩
  · obtain ⟨r, answer⟩ := exec_responds i
    exact ⟨_, eq.trans (answer _), by simp [hs], by simp [hs], by simp⟩

/-! ### Legal responses (R34) -/

theorem responseOf_encode_bytes_iff {h : Header} {s : State} {out : OutBuf} :
    responseOf (.encode h) s = some (.bytes out) ↔ h.count.toNat ≤ 31 ∧ out = assemble h := by
  by_cases hc : h.count.toNat ≤ 31
  · rw [responseOf_eq_result (exec_encode_ok hc s)]
    simp [hc, eq_comm]
  · rw [responseOf_eq_result (exec_encode_invalidHeader (Nat.lt_of_not_le hc) s)]
    simp [hc]

/-- Only ENCODE answers bytes. -/
theorem encode_of_result_bytes {i : Instr} {s t : State} {out : OutBuf} (ht : exec i s = .next t)
    (hr : t.result = some (.bytes out)) : ∃ h, i = .encode h := by
  obtain ⟨count, rfl⟩ | ⟨h, rfl⟩ | ⟨buf, isClassify⟩ | ⟨buf, isDecode⟩ := exec_eq_operation i
  · cases ht.symm.trans (exec_validate count s)
    simp [answered] at hr
  · exact ⟨h, rfl⟩
  · cases ht.symm.trans (isClassify s)
    simp at hr
  · obtain ⟨-, eq⟩ | ⟨_, _, _, _, _, -, -, eq⟩ | ⟨_, _, _, _, _, -, -, eq⟩ := decodeBuffer_cases buf s <;>
    · cases ht.symm.trans ((isDecode s).trans eq)
      simp at hr

theorem versionField_assemble {h : Header} (hc : h.count.toNat ≤ 31) : versionField (assemble h).o0 = Config.version := by
  rw [versionField_iff_div, assemble_o0_toNat hc]
  have bit := h.p.toNat_le
  omega

/-- Every answer is legal: bytes come from ENCODE, which writes version 2. -/
theorem legal_of_exec {i : Instr} {s : State} {r : Response} (answer : exec i s = .next (responded r s)) :
    r.legal = true := by
  cases r with
  | flag | record | error => rfl
  | bytes out =>
    obtain ⟨h, rfl⟩ := encode_of_result_bytes answer rfl
    obtain ⟨hc, rfl⟩ := responseOf_encode_bytes_iff.mp (responseOf_eq_result answer)
    exact decide_eq_true (versionField_assemble hc)

/-! ### The invariant -/

/-- 10_state.md R29, 70_reset_and_hazards.md R171: without a request, or under reset, every signal equation gives 0. -/
theorem portEquations_off {rst : Bool} {c : CommandPort} (off : (c.valid && !rst) = false) :
    portEquations rst c = ResponsePort.quiet := by
  simp [portEquations, ResponsePort.quiet, off]

theorem State.inv_of_quiet {t : State} (off : (t.cmd.valid && !t.rst) = false) (rsp : t.rsp = ResponsePort.quiet)
    (result : t.result = none) (legal : ∀ r, some r ∈ t.trace → r.legal = true) : t.Inv where
  combinational := by rw [rsp, portEquations_off off]
  carries := by rw [rsp, result]
  resultLegal := by simp [result]
  traceLegal := legal

theorem State.inv_responded {r : Response} {s : State} (port : driveResponse r = portEquations s.rst s.cmd)
    (legal : r.legal = true) (recorded : ∀ r, some r ∈ s.trace → r.legal = true) : (responded r s).Inv where
  combinational := port
  carries := rfl
  resultLegal := by simp [legal]
  traceLegal := by
    intro q hq
    obtain old | new : some q ∈ s.trace ∨ q = r := by simpa using hq
    · exact recorded q old
    · exact new ▸ legal

/-- Settles O1: the reset state, field by field. -/
theorem resetLeavesThePortQuiet : Obligations.ResetLeavesThePortQuiet :=
  ⟨rfl, rfl, rfl⟩

/-- Settles O2: at reset the port is quiet, without a request, and nothing is recorded. -/
theorem resetMeetsTheInvariant : Obligations.ResetMeetsTheInvariant :=
  State.inv_of_quiet rfl rfl rfl (by simp [State.reset])

/-- Settles O3: a step that answers nothing leaves a quiet port, and its sample is no request or stands under reset; one
that runs an instruction drives what the signal equations give for the request on the port, with a legal response. -/
theorem stepKeepsTheInvariant : Obligations.StepKeepsTheInvariant := by
  intro s t inv ht
  have recorded := inv.traceLegal
  obtain ⟨-, eq⟩ | ⟨line, rest, c, -, hv, eq⟩ | ⟨line, rest, c, -, -, eq⟩ | ⟨line, rest, w, i, -, -, hd, eq⟩ :=
    step_cases s
  · cases ht.symm.trans eq
    exact State.inv_of_quiet rfl rfl rfl recorded
  · cases ht.symm.trans eq
    exact State.inv_of_quiet (by simp [hv]) rfl rfl (by simpa using recorded)
  · cases ht.symm.trans eq
    exact State.inv_of_quiet (by simp) rfl rfl (by simpa using recorded)
  · obtain ⟨r, answer, port⟩ := decode_drivesPortOf hd (wires s)
    cases ht.symm.trans (eq.trans (answer _))
    exact State.inv_responded port (legal_of_exec (answer s)) recorded

end Sys2Proof.Machine
end

section
/-! PROOFS, 40_classifier.md. What CLASSIFY accepts: the patterns of the prefix rows (30_encoding.md R69), their number,
and what has no influence on the flag (R93). -/

namespace Sys2Proof.Machine

open Sys2Proof.Claims

@[simp] theorem responseOf_classify (buf : Buf) (s : State) :
    responseOf (.classify buf) s = some (.flag (classifyFlag buf)) := rfl

/-! ### The prefix rows (30_encoding.md R69, R74) -/

/-- CLASSIFY of a prefix's buffer is true when the prefix shows one of the five patterns. -/
theorem classifyFlag_ofPrefix {h pattern : PrefixWord} (rest : BitVec 16) (shows : h &&& 0xC07F#16 = pattern)
    (row : pattern ∈ [0x8048#16, 0x8049#16, 0x804A#16, 0x804B#16, 0x804C#16]) :
    classifyFlag (Buf.ofPrefix h rest) = true := by
  have whole : h.extractLsb' 8 8 ++ h.extractLsb' 0 8 = h := BitVec.extractLsb'_append_extractLsb'
  rw [Buf.ofPrefix, classifyFlag_full_eq_patterns, whole, shows]
  simpa [or_assoc] using row

theorem classifyBuffer_row (x : BitVec 6) (m : Bool) (pt7 : BitVec 7) (rest : BitVec 16) (s : State)
    (row : classifierPrefix 0 false pt7 ∈ [0x8048#16, 0x8049#16, 0x804A#16, 0x804B#16, 0x804C#16]) :
    classifyBuffer (Buf.ofPrefix (classifierPrefix x m pt7) rest) s =
      .next (answered s (.flag true) (flagPort true)) := by
  rw [← classifyFlag_ofPrefix rest (Laws.classifierPrefix_mask x m pt7) row]
  exact exec_classify _ s

/-- Settles O10: under the mask only version 2 and the row's payload type remain of its prefix, which is a pattern. -/
theorem classifierRowsAnswerTrue : Obligations.ClassifierRowsAnswerTrue := by
  intro x m rest s
  and_intros <;> exact classifyBuffer_row x m _ rest s (by decide)

/-- Settles O11: the flag in its two other forms, as masked patterns and as arithmetic. -/
theorem classifyAcceptsThePrefixPatterns : Obligations.ClassifyAcceptsThePrefixPatterns := by
  intro b0 b1 b2 b3 extra s
  constructor
  · rw [responseOf_classify, classifyFlag_full_eq_patterns]
    simp [or_assoc]
  · rw [responseOf_classify, classifyFlag_full_eq_arith]
    have h0 := b0.isLt
    have h1 := b1.isLt
    simp only [Option.some.injEq, Response.flag.injEq, decide_eq_true_eq]
    omega

/-! ### The number of accepted prefixes (30_encoding.md R69) -/

/-- Counting the numbers below `m * k` by their quotient and remainder by `k`. -/
theorem countP_range_mul (p q : Nat → Bool) (m k : Nat) :
    (List.range (m * k)).countP (fun n => p (n / k) && q (n % k)) =
      (List.range m).countP p * (List.range k).countP q := by
  induction m with
  | zero => simp
  | succ m ih =>
    have block : (List.range k).countP (fun i => p ((m * k + i) / k) && q ((m * k + i) % k)) =
        (List.range k).countP (fun i => p m && q i) := by
      refine List.countP_congr fun i hi => ?_
      have hi : i < k := List.mem_range.mp hi
      rw [Nat.mul_comm m k, Nat.mul_add_div (by omega), Nat.div_eq_of_lt hi, Nat.mul_add_mod, Nat.mod_eq_of_lt hi,
        Nat.add_zero]
    rw [Nat.succ_mul, List.range_add, List.countP_append, ih, List.countP_map, List.range_succ, List.countP_append,
      Nat.add_mul]
    congr 1
    refine block.trans ?_
    cases hp : p m <;> simp [hp]

/-- The first bytes of version 2: one of four version fields, with any six lower bits. -/
theorem countP_version2 : (List.range 256).countP (fun n => decide (n / 64 = 2)) = 64 := by
  calc (List.range 256).countP (fun n => decide (n / 64 = 2))
    _ = (List.range (4 * 64)).countP (fun n => decide (n / 64 = 2) && true) := by simp only [Bool.and_true]
    _ = 1 * 64 := by rw [countP_range_mul (fun n => decide (n = 2)) (fun _ => true)]; decide

/-- The second bytes of a payload type in the range: five types, with either marker bit. -/
theorem countP_conflictRange : (List.range 256).countP (fun n => decide (72 ≤ n % 128 ∧ n % 128 ≤ 76)) = 10 := by
  calc (List.range 256).countP (fun n => decide (72 ≤ n % 128 ∧ n % 128 ≤ 76))
    _ = (List.range (2 * 128)).countP (fun n => true && decide (72 ≤ n % 128 ∧ n % 128 ≤ 76)) := by
      simp only [Bool.true_and]
    _ = 2 * 5 := by rw [countP_range_mul (fun _ => true) (fun n => decide (72 ≤ n ∧ n ≤ 76))]; decide

/-- Settles O12: the version looks at the quotient by 256 and the range at the remainder, so the count is the product of 64
first bytes and 10 second bytes. -/
theorem classifyAcceptsExactly640Prefixes : Obligations.ClassifyAcceptsExactly640Prefixes := by
  intro b2 b3 extra s
  calc (List.range 65536).countP _
    _ = (List.range (256 * 256)).countP
        (fun n => decide (n / 256 / 64 = 2) && decide (72 ≤ n % 256 % 128 ∧ n % 256 % 128 ≤ 76)) := by
      refine List.countP_congr fun n hn => ?_
      have hn : n < 65536 := List.mem_range.mp hn
      have first : (BitVec.ofNat 8 (n / 256)).toNat = n / 256 := Nat.mod_eq_of_lt (by omega)
      have second : (BitVec.ofNat 8 (n % 256)).toNat = n % 256 := Nat.mod_mod n 256
      rw [responseOf_classify, classifyFlag_full_eq_arith, first, second]
      simp
    _ = 64 * 10 := by
      rw [countP_range_mul (fun n => decide (n / 64 = 2)) (fun n => decide (72 ≤ n % 128 ∧ n % 128 ≤ 76)),
        countP_version2, countP_conflictRange]

/-! ### What has no influence (R93) -/

/-- Settles O13: the arithmetic flag has no other operands. -/
theorem classifyIgnoresEverythingElse : Obligations.ClassifyIgnoresEverythingElse := by
  intro b0 b1 b2 b3 c0 c1 c2 c3 e e' s version type
  rw [exec_classify, exec_classify, classifyFlag_full_eq_arith, classifyFlag_full_eq_arith, version, type]

/-- CLASSIFY of a header word's bytes sees version 2, so its payload type decides. -/
theorem classifyFlag_headerWord (p : Bool) (rc : BitVec 5) (pt : Byte) (len : BitVec 16) :
    classifyFlag (Buf.ofWord (headerWord p rc pt len)) = decide (72 ≤ pt.toNat % 128 ∧ pt.toNat % 128 ≤ 76) := by
  obtain ⟨-, -, type, -, version⟩ := headerWord_fields p rc pt len
  have two := (versionField_iff_div _).mp ((versionField_extractLsb' (headerWord p rc pt len)).trans version)
  rw [Buf.ofWord, classifyFlag_full_eq_arith, type]
  simp only [two, true_and]

/-- Settles O14: with bit 7 stripped the named types are 72 to 79, and the range ends at 76, which is 204. -/
theorem feedbackAndReportTypesAreNotClassified : Obligations.FeedbackAndReportTypesAreNotClassified := by
  intro p rc pt len s named
  have range : 200 ≤ pt.toNat ∧ pt.toNat ≤ 207 := by simpa [namedPt, BitVec.le_def] using named
  have same : (72 ≤ pt.toNat % 128 ∧ pt.toNat % 128 ≤ 76) ↔ pt.toNat ≤ 204 := by omega
  rw [responseOf_classify, classifyFlag_headerWord, decide_eq_decide.mpr same]

/-- Settles O36: the presented length is at least four like the true one, and past four neither operation reads it. -/
theorem saturationChangesNoResponse : Obligations.SaturationChangesNoResponse :=
  fun _ b0 b1 b2 b3 extra presented s _ _ =>
    ⟨decodeBuffer_full_extra_irrel b0 b1 b2 b3 presented extra s,
      classifyBuffer_full_extra_irrel b0 b1 b2 b3 presented extra s⟩

end Sys2Proof.Machine
end

section
/-! PROOFS, 41_codec_encode.md and 42_codec_decode.md. ENCODE and DECODE invert each other (30_encoding.md R73), with what
follows: VALIDATE as the gate (R102), injectivity (R108), the header rows (30_encoding.md R66) and CLASSIFY of their
buffers (R108; 40_classifier.md R94). -/

namespace Sys2Proof.Machine

open Sys2Proof.Claims

@[simp] theorem responseOf_validate (count : Byte) (s : State) :
    responseOf (.validate count) s = some (.flag (decide (count.toNat ≤ 31))) :=
  responseOf_eq_result (exec_validate count s)

/-- Settles O19: both turn on the count's bound. -/
theorem validateIsTheEncodeGate : Obligations.ValidateIsTheEncodeGate := by
  intro h s s'
  simp [responseOf_encode_bytes_iff]

/-! ### DECODE of ENCODE (R73 (a)) -/

/-- The record DECODE answers for four bytes of version 2. -/
def recordOf (b0 b1 b2 b3 : Byte) : Record := ⟨paddingField b0, countField b0, b1, b2 ++ b3⟩

theorem responseOf_decode_recordOf {b0 : Byte} (b1 b2 b3 : Byte) (extra : Nat) (s : State)
    (hv : versionField b0 = Config.version) :
    responseOf (.decode (.full b0 b1 b2 b3 extra)) s = some (.record (recordOf b0 b1 b2 b3)) :=
  responseOf_decode_ok b1 b2 b3 extra s hv

/-- A record answers to a buffer of version 2 only. -/
theorem full_of_responseOf_record {buf : Buf} {s : State} {res : Record}
    (answer : responseOf (.decode buf) s = some (.record res)) :
    ∃ b0 b1 b2 b3 extra, buf = .full b0 b1 b2 b3 extra ∧ versionField b0 = Config.version ∧
      res = recordOf b0 b1 b2 b3 := by
  obtain ⟨-, eq⟩ | ⟨_, _, _, _, _, -, -, eq⟩ | ⟨b0, b1, b2, b3, extra, rfl, hv, eq⟩ := decodeBuffer_cases buf s <;>
    rw [responseOf_eq_result ((exec_decode _ s).trans eq)] at answer
  · simp at answer
  · simp at answer
  · exact ⟨b0, b1, b2, b3, extra, rfl, hv, by simpa [recordOf] using answer.symm⟩

/-- The fields of the bytes a header is assembled to are the header's. -/
theorem recordHeader_assemble {h : Header} (hc : h.count.toNat ≤ 31) :
    recordHeader (recordOf (assemble h).o0 (assemble h).o1 (assemble h).o2 (assemble h).o3) = h := by
  have sum := assemble_o0_toNat hc
  have bit := h.p.toNat_le
  have padding : paddingField (assemble h).o0 = h.p := by
    rw [paddingField_eq_div, Bool.eq_iff_iff, decide_eq_true_iff, ← Bool.toNat_eq_one]
    omega
  have count : (countField (assemble h).o0).zeroExtend 8 = h.count := by
    apply BitVec.eq_of_toNat_eq
    rw [countField_eq_mod, BitVec.toNat_setWidth, BitVec.toNat_ofNat]
    omega
  have length : (assemble h).o2 ++ (assemble h).o3 = h.length := BitVec.extractLsb'_append_extractLsb'
  rw [recordHeader, recordOf, padding, count, length]
  rfl

/-- Settles O26: the assembled bytes have version 2, so they decode, to the header's own fields. -/
theorem decodeOfEncodeGivesTheHeader : Obligations.DecodeOfEncodeGivesTheHeader :=
  fun h tail _ s' hc =>
    ⟨assemble h, _, responseOf_encode_bytes_iff.mpr ⟨hc, rfl⟩,
      responseOf_decode_recordOf _ _ _ tail.length s' (versionField_assemble hc), recordHeader_assemble hc⟩

/-- Settles O20: the header is recovered from its bytes, by DECODE. -/
theorem encodeIsInjective : Obligations.EncodeIsInjective := by
  intro h k s s' out hOut kOut
  obtain ⟨hc, rfl⟩ := responseOf_encode_bytes_iff.mp hOut
  obtain ⟨kc, same⟩ := responseOf_encode_bytes_iff.mp kOut
  rw [← recordHeader_assemble hc, same, recordHeader_assemble kc]

/-- Settles O21: the bytes have version 2, so the payload type decides. -/
theorem classifyOfAnEncodedHeader : Obligations.ClassifyOfAnEncodedHeader := by
  intro h s s' out answer
  obtain ⟨hc, rfl⟩ := responseOf_encode_bytes_iff.mp answer
  have two := (versionField_iff_div _).mp (versionField_assemble hc)
  rw [responseOf_classify, bufOfBytes, classifyFlag_full_eq_arith]
  simp only [two, true_and]
  rfl

/-! ### ENCODE of DECODE (R73 (b)) -/

/-- A record's count has five bits, so it is legal (42_codec_decode.md R126). -/
theorem recordHeader_count_le (res : Record) : (recordHeader res).count.toNat ≤ 31 := by
  have := res.count.isLt
  rw [recordHeader, BitVec.toNat_setWidth]
  omega

/-- The bytes of version 2 are the ones their fields are assembled to. -/
theorem assemble_recordHeader {b0 : Byte} (b1 b2 b3 : Byte) (hv : versionField b0 = Config.version) :
    assemble (recordHeader (recordOf b0 b1 b2 b3)) = ⟨b0, b1, b2, b3⟩ := by
  have two := (versionField_iff_div b0).mp hv
  have padding : (recordHeader (recordOf b0 b1 b2 b3)).p.toNat = b0.toNat / 32 % 2 :=
    Nat.toNat_testBit b0.toNat 5
  have count : (recordHeader (recordOf b0 b1 b2 b3)).count.toNat = b0.toNat % 32 := by
    rw [recordHeader, recordOf, countField_eq_mod, BitVec.toNat_setWidth, BitVec.toNat_ofNat]
    omega
  have first : (assemble (recordHeader (recordOf b0 b1 b2 b3))).o0 = b0 := by
    apply BitVec.eq_of_toNat_eq
    rw [assemble_o0_toNat (recordHeader_count_le _), padding, count]
    omega
  have third : (assemble (recordHeader (recordOf b0 b1 b2 b3))).o2 = b2 := BitVec.extractLsb'_append_eq_left
  have fourth : (assemble (recordHeader (recordOf b0 b1 b2 b3))).o3 = b3 := BitVec.extractLsb'_append_eq_right
  rw [assemble, OutBuf.mk.injEq]
  exact ⟨first, rfl, third, fourth⟩

/-- Settles O27: a buffer that decodes has version 2, and its record's count is legal. -/
theorem encodeOfDecodeGivesTheBytes : Obligations.EncodeOfDecodeGivesTheBytes := by
  intro buf res s s' answer
  obtain ⟨b0, b1, b2, b3, extra, rfl, hv, rfl⟩ := full_of_responseOf_record answer
  have legal := recordHeader_count_le (recordOf b0 b1 b2 b3)
  refine ⟨b0, b1, b2, b3, extra, rfl, ?_, ?_⟩
  · exact responseOf_encode_bytes_iff.mpr ⟨legal, (assemble_recordHeader b1 b2 b3 hv).symm⟩
  · rw [responseOf_validate, decide_eq_true legal]

/-! ### The header rows (30_encoding.md R66, R67) -/

/-- The record of a header word's bytes holds the fields of the word. -/
theorem recordOf_extractLsb' (w : HeaderWord) :
    recordOf (w.extractLsb' 24 8) (w.extractLsb' 16 8) (w.extractLsb' 8 8) (w.extractLsb' 0 8) =
      ⟨w.getLsbD 29, w.extractLsb' 24 5, w.extractLsb' 16 8, w.extractLsb' 0 16⟩ := by
  have padding : paddingField (w.extractLsb' 24 8) = w.getLsbD 29 := by simp [paddingField]
  have count : countField (w.extractLsb' 24 8) = w.extractLsb' 24 5 := by
    apply BitVec.eq_of_getLsbD_eq
    intro i hi
    have inByte : i < 8 := by omega
    simp [countField, hi, inByte]
  have length : w.extractLsb' 8 8 ++ w.extractLsb' 0 8 = w.extractLsb' 0 16 :=
    BitVec.extractLsb'_append_extractLsb'_eq_extractLsb' rfl
  rw [recordOf, padding, count, length]

theorem decodeBuffer_ofWord {w : HeaderWord} (hv : w.extractLsb' 30 2 = Config.version) (s : State) :
    decodeBuffer (Buf.ofWord w) s =
      .next (recordAnswered s (w.getLsbD 29) (w.extractLsb' 24 5) (w.extractLsb' 16 8) (w.extractLsb' 0 16)) :=
  calc decodeBuffer (Buf.ofWord w) s
    _ = .next (responded (.record (recordOf _ _ _ _)) s) :=
      decodeBuffer_ok _ _ _ _ 0 s ((versionField_extractLsb' w).trans hv)
    _ = _ := by
      rw [recordOf_extractLsb', responded_eq_answered, driveResponse_record_eq_recordPort, recordAnswered]

/-- DECODE of an assembled word's bytes answers the fields it was made of. -/
theorem decodeBuffer_headerWord_fields (p : Bool) (rc : BitVec 5) (pt : Byte) (len : BitVec 16) (s : State) :
    decodeBuffer (Buf.ofWord (headerWord p rc pt len)) s = .next (recordAnswered s p rc pt len) := by
  obtain ⟨padding, count, type, length, version⟩ := headerWord_fields p rc pt len
  rw [decodeBuffer_ofWord version, padding, count, type, length]

/-- Settles O25: each row is the DECODE of its word. -/
theorem headerRowsReturnTheirFields : Obligations.HeaderRowsReturnTheirFields := by
  intro p rc pt len s
  and_intros <;> exact decodeBuffer_headerWord_fields p rc _ len s

/-! ### CLASSIFY and DECODE (40_classifier.md R94) -/

/-- CLASSIFY checks the length and the version that DECODE checks. -/
theorem decode_of_classifyFlag {buf : Buf} (accepted : classifyFlag buf = true) :
    ∃ res, ∀ s, responseOf (.decode buf) s = some (.record res) := by
  cases buf with
  | full b0 b1 b2 b3 extra =>
    rw [classifyFlag_full_eq_arith, decide_eq_true_iff] at accepted
    obtain ⟨two, -⟩ := accepted
    exact ⟨_, fun s => responseOf_decode_recordOf b1 b2 b3 extra s ((versionField_iff_div b0).mpr two)⟩
  | empty | one | two | three => cases (classifyFlag_short (by simp)).symm.trans accepted

/-- Settles O28: a payload type of 0 is outside CLASSIFY's range and within DECODE's. -/
theorem classifiedBuffersDecode : Obligations.ClassifiedBuffersDecode := by
  constructor
  · intro buf s s' answer
    obtain ⟨res, decodes⟩ := decode_of_classifyFlag (by simpa using answer)
    exact ⟨res, decodes s'⟩
  · exact ⟨.full 0x80 0 0 0 0, fun s => ⟨rfl, _, responseOf_decode_recordOf 0 0 0 0 s rfl⟩⟩

end Sys2Proof.Machine
end

section
/-! PROOFS, 10_state.md and 00_scope.md. Samples that agree on what the operation reads get the same response (R28), and
a header word or a prefix is such a sample of its own bytes (00_scope.md R2; 30_encoding.md R74). -/

namespace Sys2Proof.Machine

open Sys2Proof.Claims

/-! ### The two buffer operations under agreeing lanes (20_memory.md R43, R46) -/

theorem exec_classify_ofLanes_eq {l l' : Nat} {b0 b1 c0 c1 : Byte} (b2 b3 c2 c3 : Byte) (long : 4 ≤ l ↔ 4 ≤ l')
    (read : 4 ≤ l → b0 = c0 ∧ b1 = c1) (s : State) :
    exec (.classify (Buf.ofLanes l b0 b1 b2 b3)) s = exec (.classify (Buf.ofLanes l' c0 c1 c2 c3)) s := by
  rw [exec_classify, exec_classify]
  by_cases hl : 4 ≤ l
  · obtain ⟨rfl, rfl⟩ := read hl
    rw [ofLanes_eq_full hl, ofLanes_eq_full (long.mp hl), classifyFlag_full, classifyFlag_full]
  · rw [classifyFlag_short (by simpa using hl), classifyFlag_short (by simpa using long.not.mp hl)]

theorem exec_decode_ofLanes_eq {l l' : Nat} {b0 b1 b2 b3 c0 c1 c2 c3 : Byte} (long : 4 ≤ l ↔ 4 ≤ l')
    (read : 4 ≤ l → (b0 = c0 ∧ b1 = c1) ∧ b2 = c2 ∧ b3 = c3) (s : State) :
    exec (.decode (Buf.ofLanes l b0 b1 b2 b3)) s = exec (.decode (Buf.ofLanes l' c0 c1 c2 c3)) s := by
  rw [exec_decode, exec_decode]
  by_cases hl : 4 ≤ l
  · obtain ⟨⟨rfl, rfl⟩, rfl, rfl⟩ := read hl
    rw [ofLanes_eq_full hl, ofLanes_eq_full (long.mp hl), decodeBuffer_full_extra_irrel]
  · rw [decodeBuffer_short (by simpa using hl), decodeBuffer_short (by simpa using long.not.mp hl)]

/-! ### Samples that agree (10_state.md R28) -/

/-- Two valid samples that agree on what the operation reads decode to instructions of one meaning. -/
theorem decodePort_sameRequest {c d : CommandPort} (same : SameRequest c d) (hv : c.valid = true) :
    ∃ i j, decodePort c = .instr i ∧ decodePort d = .instr j ∧ ∀ s, exec i s = exec j s := by
  obtain ⟨valid, agree⟩ := same
  obtain ⟨op, buffer, lanes, count, header⟩ := agree hv
  have hd : d.valid = true := valid ▸ hv
  have codes : ∀ op : BitVec 2, op = 0#2 ∨ op = 1#2 ∨ op = 2#2 ∨ op = 3#2 := by decide
  obtain hop | hop | hop | hop := codes c.op
  · obtain ⟨long, read⟩ := buffer (.inl hop)
    exact ⟨_, _, decodePort_classify hv hop, decodePort_classify hd (op ▸ hop),
      exec_classify_ofLanes_eq _ _ _ _ long read⟩
  · refine ⟨_, _, decodePort_validate hv hop, decodePort_validate hd (op ▸ hop), fun s => ?_⟩
    rw [count (.inl hop)]
  · refine ⟨_, _, decodePort_encode hv hop, decodePort_encode hd (op ▸ hop), fun s => ?_⟩
    obtain ⟨p, pt, length⟩ := header hop
    rw [count (.inr hop), p, pt, length]
  · obtain ⟨long, read⟩ := buffer (.inr hop)
    exact ⟨_, _, decodePort_decode hv hop, decodePort_decode hd (op ▸ hop),
      exec_decode_ofLanes_eq long fun hl => ⟨read hl, lanes hop hl⟩⟩

/-- Two steps that run instructions of one meaning answer alike, from any two states (00_scope.md R14). -/
theorem same_response_of_exec_eq {s s' a a' : State} {i j : Instr} (hs : step s = exec i a) (hs' : step s' = exec j a')
    (same : ∀ u, exec i u = exec j u) :
    ∃ t t', step s = .next t ∧ step s' = .next t' ∧ t.rsp = t'.rsp ∧ t.result = t'.result := by
  obtain ⟨r, answer⟩ := exec_responds i
  exact ⟨_, _, hs.trans (answer a), hs'.trans ((same a').symm.trans (answer a')), rfl, rfl⟩

/-- Settles O34: without a request both ports are quiet; with one, the samples decode to instructions of one meaning. -/
theorem inputsNotReadHaveNoInfluence : Obligations.InputsNotReadHaveNoInfluence := by
  intro s s' c d rest rest' same hs hs'
  cases hv : c.valid with
  | false =>
    obtain ⟨valid, -⟩ := same
    exact ⟨_, _, step_port_noRequest hs hv, step_port_noRequest hs' (valid ▸ hv), rfl, rfl⟩
  | true =>
    obtain ⟨i, j, hi, hj, meaning⟩ := decodePort_sameRequest same hv
    exact same_response_of_exec_eq (step_port_instr hs hi) (step_port_instr hs' hj) meaning

/-! ### Header words and prefixes (30_encoding.md R74) -/

/-- A word whose own sample agrees with `c` runs as the request on `c`. -/
theorem step_word_eq_step_port {s s' : State} {w : RequestWord} {i : Instr} {c : CommandPort} {rest rest' : List Line}
    (hd : decode w = .instr i) (same : SameRequest (w.command (wires s)) c) (hs : s.script = .word w :: rest)
    (hs' : s'.script = .word (.port c) :: rest') :
    ∃ t t', step s = .next t ∧ step s' = .next t' ∧ t.rsp = t'.rsp ∧ t.result = t'.result := by
  obtain ⟨hv, j, hj, asPort⟩ := decodePort_command hd (wires s)
  obtain ⟨j', k, hj', hk, agree⟩ := decodePort_sameRequest same hv
  obtain rfl : j = j' := Decoded.instr.inj (hj.symm.trans hj')
  exact same_response_of_exec_eq (step_request hs rfl hd) (step_port_instr hs' hk) fun u => (asPort u).trans (agree u)

/-- The buffer of a word given by its four bytes, most significant first. -/
theorem ofWord_append (b0 b1 b2 b3 : Byte) : Buf.ofWord (b0 ++ b1 ++ b2 ++ b3) = .full b0 b1 b2 b3 0 := by
  rw [Buf.ofWord, Buf.full.injEq]
  refine ⟨?_, ?_, ?_, ?_, rfl⟩ <;>
  · apply BitVec.eq_of_getLsbD_eq
    intro i hi
    simp only [BitVec.getLsbD_append, BitVec.getLsbD_extractLsb']
    interval_cases i <;> simp

theorem ofPrefix_append (b0 b1 : Byte) (tail : BitVec 16) :
    Buf.ofPrefix (b0 ++ b1) tail = .full b0 b1 (tail.extractLsb' 8 8) (tail.extractLsb' 0 8) 0 := by
  rw [Buf.ofPrefix, BitVec.extractLsb'_append_eq_left, BitVec.extractLsb'_append_eq_right]

theorem sameRequest_decodeCommand (wires : CommandPort) {c : CommandPort} (hv : c.valid = true) (hop : c.op = 3)
    (hl : 4 ≤ c.len) (extra : Nat) : SameRequest (decodeCommand wires (.full c.b0 c.b1 c.b2 c.b3 extra)) c := by
  simp [SameRequest, decodeCommand, requestFor, CommandPort.withBuf, Config.opDecode, hv, hop, hl]

theorem sameRequest_classifyCommand (wires : CommandPort) {c : CommandPort} (hv : c.valid = true) (hop : c.op = 0)
    (hl : 4 ≤ c.len) (b2 b3 : Byte) (extra : Nat) :
    SameRequest (classifyCommand wires (.full c.b0 c.b1 b2 b3 extra)) c := by
  simp [SameRequest, classifyCommand, requestFor, CommandPort.withBuf, Config.opClassify, hv, hop, hl]

/-- Settles O42: the word's own sample carries the bytes that the lanes of `c` carry. -/
theorem tableWordsRunAsPortRequests : Obligations.TableWordsRunAsPortRequests := by
  constructor
  · rintro s s' _ c rest hv hop hl rfl hs hs'
    refine step_word_eq_step_port rfl ?_ hs hs'
    rw [RequestWord.command, ofWord_append]
    exact sameRequest_decodeCommand _ hv hop hl 0
  · rintro s s' _ tail c rest hv hop hl rfl hs hs'
    refine step_word_eq_step_port rfl ?_ hs hs'
    rw [RequestWord.command, ofPrefix_append]
    exact sameRequest_classifyCommand _ hv hop hl _ _ 0

end Sys2Proof.Machine
end

section
/-! PROOFS, 30_encoding.md. Scripts (R77) and the pseudo-operations RECV and SEND (R78): a line leaves the script and its
response, or an empty entry, is added to the record. -/

namespace Sys2Proof.Machine

open Sys2Proof.Claims

/-! ### Scripts of literal requests (R77) -/

/-- A literal line is answered by the response of its own word. -/
theorem step_word {s : State} {w : RequestWord} {rest : List Line} (hs : s.script = .word w :: rest) :
    ∃ t, step s = .next t ∧ t.script = rest ∧ t.trace = s.trace ++ [wordResponse w] := by
  cases hd : decode w with
  | instr i =>
    obtain ⟨r, answer⟩ := exec_responds i
    have response : wordResponse w = some r := by
      rw [wordResponse, hd]
      exact responseOf_eq_result (answer State.reset)
    exact ⟨_, (step_request hs rfl hd).trans (answer _), rfl, by simp [response]⟩
  | rejected reason =>
    have response : wordResponse w = none := by rw [wordResponse, hd]
    exact ⟨_, step_rejected hs rfl hd, rfl, by simp [response]⟩

/-- Settles O43, by induction on the requests: the first line adds its word's response, and the run goes on from there. -/
theorem aScriptEndsInItsResponses : Obligations.AScriptEndsInItsResponses := by
  intro ws
  induction ws with
  | nil => exact fun rest s hs => ⟨s, rfl, hs, by simp⟩
  | cons w ws ih =>
    intro rest s hs
    obtain ⟨u, first, script, trace⟩ := step_word hs
    obtain ⟨t, run, done, record⟩ := ih rest u script
    exact ⟨t, (run_next core ws.length s u first).trans run, done, by simp [record, trace]⟩

/-! ### Lines with operands (10_state.md R28) -/

theorem present_onFlag_of_set {trace : List (Option Response)} {n : Nat} (line : Line) (set : flagIsSet trace n = true) :
    present trace (.onFlag n line) = present trace line := by
  rw [present, if_pos set]

theorem present_onFlag_of_clear {trace : List (Option Response)} {n : Nat} (line : Line)
    (clear : flagIsSet trace n = false) : present trace (.onFlag n line) = .nothing := by
  simp [present, clear]

theorem present_decode {trace : List (Option Response)} {b : BufArg} {l : List Byte}
    (operand : resolveBuf trace b = some l) :
    present trace (.decode b) =
      .request (encode (Config.undriven trace.length) (.decode (saturate (bufOfBytes l)))) := by
  simp [present, operand]

/-- The saturated buffer differs in its length beyond four alone, which CLASSIFY does not read. -/
theorem classifyFlag_saturate (buf : Buf) : classifyFlag (saturate buf) = classifyFlag buf := by
  cases buf with
  | full b0 b1 b2 b3 extra => rw [saturate, classifyFlag_full, classifyFlag_full]
  | empty | one | two | three => rfl

/-- Nor does DECODE. -/
theorem exec_decode_saturate (buf : Buf) (s : State) : exec (.decode (saturate buf)) s = exec (.decode buf) s := by
  cases buf with
  | full b0 b1 b2 b3 extra => exact decodeBuffer_full_extra_irrel b0 b1 b2 b3 _ _ s
  | empty | one | two | three => rfl

/-- The response of an instruction in one state is its answer in every state (00_scope.md R14). -/
theorem exec_of_responseOf {i : Instr} {s : State} {r : Response} (response : responseOf i s = some r) (u : State) :
    exec i u = .next (responded r u) := by
  obtain ⟨q, answer⟩ := exec_responds i
  obtain rfl : q = r := Option.some.inj ((responseOf_eq_result (answer s)).symm.trans response)
  exact answer u

section
variable {s : State} {rest : List Line}

theorem step_classify_bytes {l : List Byte} (hs : s.script = .classify (.bytes l) :: rest) :
    ∃ t, step s = .next t ∧ t.script = rest ∧ t.trace = s.trace ++ [some (.flag (classifyFlag (bufOfBytes l)))] := by
  refine ⟨_, (step_request hs rfl (decodePort_classifyCommand _ _)).trans (exec_classify _ _), rfl, ?_⟩
  rw [classifyFlag_saturate]
  rfl

/-- A line that presents the DECODE of a list records what DECODE of that list answers. -/
theorem step_decode {line : Line} {l : List Byte} {r : Response} {v : State} (hs : s.script = line :: rest)
    (hp : present s.trace line = .request (encode (wires s) (.decode (saturate (bufOfBytes l)))))
    (response : responseOf (.decode (bufOfBytes l)) v = some r) :
    ∃ t, step s = .next t ∧ t.script = rest ∧ t.trace = s.trace ++ [some r] :=
  ⟨_, (step_request hs hp (decodePort_decodeCommand _ _)).trans
    ((exec_decode_saturate _ _).trans (exec_of_responseOf response _)), rfl, rfl⟩

theorem step_encode_fields {h : Header} (hs : s.script = .encode (.fields h) :: rest) (hc : h.count.toNat ≤ 31) :
    ∃ t, step s = .next t ∧ t.script = rest ∧ t.trace = s.trace ++ [some (.bytes (assemble h))] :=
  ⟨_, (step_request hs rfl (decodePort_encodeCommand _ _)).trans (exec_encode_ok hc _), rfl, rfl⟩

end

/-! ### RECV and SEND (R78) -/

/-- Two steps that answer, run one after the other. -/
theorem run_two {s t u : State} (first : step s = .next t) (second : step t = .next u) :
    Host.Core.run core 2 s = .next u :=
  (run_next core 1 s t first).trans (run_next core 0 t u second)

/-- The last entry of the record, named by its line number: a flag as a condition (R77). -/
theorem flagIsSet_append (trace : List (Option Response)) (b : Bool) :
    flagIsSet (trace ++ [some (.flag b)]) trace.length = b := by
  simp [flagIsSet]

/-- The last entry of the record, named by its line number: output bytes as a buffer. -/
theorem resolveBuf_append (trace : List (Option Response)) (out : OutBuf) :
    resolveBuf (trace ++ [some (.bytes out)]) (.outOf trace.length) = some [out.o0, out.o1, out.o2, out.o3] := by
  simp [resolveBuf]

/-- Settles O44: the first line records CLASSIFY's flag. Where it is false the second line presents nothing; where it is
true DECODE passes the same checks. -/
theorem recvNeverEndsInAnError : Obligations.RecvNeverEndsInAnError := by
  intro s l rest hs
  obtain ⟨u, first, script, trace⟩ := step_classify_bytes hs
  have condition := flagIsSet_append s.trace (classifyFlag (bufOfBytes l))
  rw [← trace] at condition
  cases flag : classifyFlag (bufOfBytes l) with
  | false =>
    have second := step_nothing script (present_onFlag_of_clear _ (condition.trans flag))
    exact ⟨_, run_two first second, rfl, .inl ⟨by simp [flag], by simp [trace, flag]⟩⟩
  | true =>
    obtain ⟨res, decodes⟩ := decode_of_classifyFlag flag
    have presents := (present_onFlag_of_set _ (condition.trans flag)).trans (present_decode (b := .bytes l) rfl)
    obtain ⟨t, second, done, record⟩ := step_decode script presents (decodes s)
    exact ⟨t, run_two first second, done, .inr ⟨by simp [flag], res, decodes s, by simp [record, trace, flag]⟩⟩

/-- Settles O45: the first line records the assembled bytes, which the second line names and decodes. -/
theorem sendThenDecodeGivesTheHeader : Obligations.SendThenDecodeGivesTheHeader := by
  intro s h rest hc hs
  obtain ⟨u, first, script, trace⟩ := step_encode_fields hs hc
  have named := resolveBuf_append s.trace (assemble h)
  rw [← trace] at named
  obtain ⟨out, res, encodes, decodes, isHeader⟩ := decodeOfEncodeGivesTheHeader h [] s s hc
  obtain ⟨-, rfl⟩ := responseOf_encode_bytes_iff.mp encodes
  obtain ⟨t, second, done, record⟩ := step_decode script (present_decode named) decodes
  exact ⟨t, assemble h, res, run_two first second, done, encodes, by simp [record, trace], isHeader⟩

end Sys2Proof.Machine
end
